-- ==== Sys2Proof/Word.lean ====
section
/-! DEFINITION. Words, bytes and register indices of the execute engine (00_scope.md rules R8 and R10). -/

namespace Sys2Proof

/-- A register value, an address, a pc or an instruction word: XLEN = 32 bits (R8, R10). -/
abbrev Word := BitVec 32

/-- One byte of memory (R40). -/
abbrev Byte := BitVec 8

/-- A register index, 0 to 31 (R21, R70). -/
abbrev Reg := BitVec 5

/-- A CSR address (R41, R70). -/
abbrev CsrAddr := BitVec 12

/-- How many bytes an instruction has: the parameter ILEN (R8, R76). -/
abbrev ilen : Nat := 4

end Sys2Proof
end

