-- ==== Sys2Proof/Syntax.lean ====
section
/-! DEFINITION. The instruction kinds and the Operation record the block consumes (30_encoding.md rules R70 to R73).
One constructor of `Instr` per row of spec/opcode_table.json, holding exactly the fields rule R72 lists for the kind
(and the qualifiers `aq`, `rl` that the atomic kinds carry). `imm` is the 32-bit immediate, already assembled and
extended (R77). The kind INVALID has no row in the table: it is a tag of the record `Operation`, which carries every field
of R70; `Operation.instr` (Decode.lean) takes from the record what its kind reads. -/

namespace Sys2Proof

/-- The capability a kind belongs to (R9, R73). -/
inductive Capability where
  /-- RV32I, always built in. -/
  | base
  /-- multiply/divide, `HAS_M`. -/
  | m
  /-- atomics, `HAS_A`. -/
  | a
  /-- CSR access, `HAS_ZICSR`. -/
  | zicsr
  /-- instruction fence, `HAS_ZIFENCEI`. -/
  | zifencei
  deriving DecidableEq, Repr

/-- The 66 instruction kinds with the fields each one reads (R72, R73). -/
inductive Instr where
  | lui (rd : Reg) (imm : Word)
  | auipc (rd : Reg) (imm : Word)
  | jal (rd : Reg) (imm : Word)
  | jalr (rd rs1 : Reg) (imm : Word)
  | beq (rs1 rs2 : Reg) (imm : Word)
  | bne (rs1 rs2 : Reg) (imm : Word)
  | blt (rs1 rs2 : Reg) (imm : Word)
  | bge (rs1 rs2 : Reg) (imm : Word)
  | bltu (rs1 rs2 : Reg) (imm : Word)
  | bgeu (rs1 rs2 : Reg) (imm : Word)
  | lb (rd rs1 : Reg) (imm : Word)
  | lh (rd rs1 : Reg) (imm : Word)
  | lw (rd rs1 : Reg) (imm : Word)
  | lbu (rd rs1 : Reg) (imm : Word)
  | lhu (rd rs1 : Reg) (imm : Word)
  | sb (rs1 rs2 : Reg) (imm : Word)
  | sh (rs1 rs2 : Reg) (imm : Word)
  | sw (rs1 rs2 : Reg) (imm : Word)
  | addi (rd rs1 : Reg) (imm : Word)
  | slti (rd rs1 : Reg) (imm : Word)
  | sltiu (rd rs1 : Reg) (imm : Word)
  | xori (rd rs1 : Reg) (imm : Word)
  | ori (rd rs1 : Reg) (imm : Word)
  | andi (rd rs1 : Reg) (imm : Word)
  | slli (rd rs1 : Reg) (imm : Word)
  | srli (rd rs1 : Reg) (imm : Word)
  | srai (rd rs1 : Reg) (imm : Word)
  | add (rd rs1 rs2 : Reg)
  | sub (rd rs1 rs2 : Reg)
  | sll (rd rs1 rs2 : Reg)
  | slt (rd rs1 rs2 : Reg)
  | sltu (rd rs1 rs2 : Reg)
  | xor (rd rs1 rs2 : Reg)
  | srl (rd rs1 rs2 : Reg)
  | sra (rd rs1 rs2 : Reg)
  | or (rd rs1 rs2 : Reg)
  | and (rd rs1 rs2 : Reg)
  | fence
  | ecall
  | ebreak
  | fenceI
  | csrrw (rd rs1 : Reg) (csr : CsrAddr) (raw : Word)
  | csrrs (rd rs1 : Reg) (csr : CsrAddr) (raw : Word)
  | csrrc (rd rs1 : Reg) (csr : CsrAddr) (raw : Word)
  | csrrwi (rd rs1 : Reg) (imm : Word) (csr : CsrAddr) (raw : Word)
  | csrrsi (rd rs1 : Reg) (imm : Word) (csr : CsrAddr) (raw : Word)
  | csrrci (rd rs1 : Reg) (imm : Word) (csr : CsrAddr) (raw : Word)
  | mul (rd rs1 rs2 : Reg)
  | mulh (rd rs1 rs2 : Reg)
  | mulhsu (rd rs1 rs2 : Reg)
  | mulhu (rd rs1 rs2 : Reg)
  | div (rd rs1 rs2 : Reg)
  | divu (rd rs1 rs2 : Reg)
  | rem (rd rs1 rs2 : Reg)
  | remu (rd rs1 rs2 : Reg)
  | lrW (rd rs1 : Reg) (aq rl : Bool)
  | scW (rd rs1 rs2 : Reg) (aq rl : Bool)
  | amoswapW (rd rs1 rs2 : Reg) (aq rl : Bool)
  | amoaddW (rd rs1 rs2 : Reg) (aq rl : Bool)
  | amoxorW (rd rs1 rs2 : Reg) (aq rl : Bool)
  | amoandW (rd rs1 rs2 : Reg) (aq rl : Bool)
  | amoorW (rd rs1 rs2 : Reg) (aq rl : Bool)
  | amominW (rd rs1 rs2 : Reg) (aq rl : Bool)
  | amomaxW (rd rs1 rs2 : Reg) (aq rl : Bool)
  | amominuW (rd rs1 rs2 : Reg) (aq rl : Bool)
  | amomaxuW (rd rs1 rs2 : Reg) (aq rl : Bool)
  deriving DecidableEq, Repr

/-- The kind tags: the 66 kinds and INVALID (R73). -/
inductive Kind where
  | lui | auipc | jal | jalr | beq | bne | blt | bge | bltu | bgeu | lb | lh | lw | lbu | lhu | sb | sh | sw | addi
  | slti | sltiu | xori | ori | andi | slli | srli | srai | add | sub | sll | slt | sltu | xor | srl | sra | or | and
  | fence | ecall | ebreak | fenceI | csrrw | csrrs | csrrc | csrrwi | csrrsi | csrrci | mul | mulh | mulhsu | mulhu
  | div | divu | rem | remu | lrW | scW | amoswapW | amoaddW | amoxorW | amoandW | amoorW | amominW | amomaxW
  | amominuW | amomaxuW | invalid
  deriving DecidableEq, Repr

/-- The Operation record that `load_instruction` hands to the block and that `execute_op` takes (R70). A kind reads the fields
R72 lists for it; the others may hold anything (R71). -/
structure Operation where
  /-- Which instruction. -/
  kind  : Kind
  /-- The destination register index. -/
  rd    : Reg
  /-- The first source register index. -/
  rs1   : Reg
  /-- The second source register index. -/
  rs2   : Reg
  /-- The immediate, assembled and extended to 32 bits (R77). -/
  imm   : Word
  /-- The CSR address. -/
  csr   : CsrAddr
  /-- The acquire qualifier. -/
  aq    : Bool
  /-- The release qualifier. -/
  rl    : Bool
  /-- The function-code bits `funct7 ++ funct3`; no handler reads them (R78). -/
  funct : BitVec 10
  /-- The instruction word the Operation was decoded from. -/
  raw   : Word
  deriving DecidableEq, Repr

/-- The capability that must be built in for the kind to exist (R73). -/
def Instr.capability : Instr → Capability
  | .lui .. | .auipc .. | .jal .. | .jalr .. => .base
  | .beq .. | .bne .. | .blt .. | .bge .. | .bltu .. | .bgeu .. => .base
  | .lb .. | .lh .. | .lw .. | .lbu .. | .lhu .. | .sb .. | .sh .. | .sw .. => .base
  | .addi .. | .slti .. | .sltiu .. | .xori .. | .ori .. | .andi .. => .base
  | .slli .. | .srli .. | .srai .. => .base
  | .add .. | .sub .. | .sll .. | .slt .. | .sltu .. | .xor .. | .srl .. | .sra .. | .or .. | .and .. => .base
  | .fence | .ecall | .ebreak => .base
  | .fenceI => .zifencei
  | .csrrw .. | .csrrs .. | .csrrc .. | .csrrwi .. | .csrrsi .. | .csrrci .. => .zicsr
  | .mul .. | .mulh .. | .mulhsu .. | .mulhu .. | .div .. | .divu .. | .rem .. | .remu .. => .m
  | .lrW .. | .scW .. => .a
  | .amoswapW .. | .amoaddW .. | .amoxorW .. | .amoandW .. | .amoorW .. => .a
  | .amominW .. | .amomaxW .. | .amominuW .. | .amomaxuW .. => .a

/-- The destination register the Operation names, if its kind has one (R23, R72). -/
def Instr.dest : Instr → Option Reg
  | .lui rd _ | .auipc rd _ | .jal rd _ | .jalr rd _ _ => some rd
  | .beq .. | .bne .. | .blt .. | .bge .. | .bltu .. | .bgeu .. => none
  | .lb rd _ _ | .lh rd _ _ | .lw rd _ _ | .lbu rd _ _ | .lhu rd _ _ => some rd
  | .sb .. | .sh .. | .sw .. => none
  | .addi rd _ _ | .slti rd _ _ | .sltiu rd _ _ | .xori rd _ _ | .ori rd _ _ | .andi rd _ _ => some rd
  | .slli rd _ _ | .srli rd _ _ | .srai rd _ _ => some rd
  | .add rd _ _ | .sub rd _ _ | .sll rd _ _ | .slt rd _ _ | .sltu rd _ _ => some rd
  | .xor rd _ _ | .srl rd _ _ | .sra rd _ _ | .or rd _ _ | .and rd _ _ => some rd
  | .fence | .ecall | .ebreak | .fenceI => none
  | .csrrw rd _ _ _ | .csrrs rd _ _ _ | .csrrc rd _ _ _ => some rd
  | .csrrwi rd _ _ _ _ | .csrrsi rd _ _ _ _ | .csrrci rd _ _ _ _ => some rd
  | .mul rd _ _ | .mulh rd _ _ | .mulhsu rd _ _ | .mulhu rd _ _ => some rd
  | .div rd _ _ | .divu rd _ _ | .rem rd _ _ | .remu rd _ _ => some rd
  | .lrW rd _ _ _ | .scW rd _ _ _ _ => some rd
  | .amoswapW rd _ _ _ _ | .amoaddW rd _ _ _ _ | .amoxorW rd _ _ _ _ => some rd
  | .amoandW rd _ _ _ _ | .amoorW rd _ _ _ _ | .amominW rd _ _ _ _ => some rd
  | .amomaxW rd _ _ _ _ | .amominuW rd _ _ _ _ | .amomaxuW rd _ _ _ _ => some rd

end Sys2Proof
end

