-- ==== Sys2Proof/Config.lean ====
section
/-! DEFINITION. The parameters of the block (00_scope.md rule R8) and the free values.
An OPEN parameter is a field of `Config` (or of a hart), held in the machine's state as data no step writes, so that a
claim about every state is a claim about every value of the parameter. A free value is a constant without a body: no
proof can see what it is. -/

namespace Sys2Proof

/-- The width of a data access: 1, 2 or 4 bytes (R51). -/
inductive Width where
  | byte
  | half
  | word
  deriving DecidableEq, Repr

/-- The `type` of an access in `Accessible(addr, n, type)` (R52). -/
inductive AccessKind where
  | fetch
  | read
  | write
  deriving DecidableEq, Repr

/-- One row of the address map: accesses of one of these widths and types that lie wholly inside `base .. base + size - 1`
are served. A list of rows can express every predicate `Accessible(addr, n, type)` (R52; log entry 1). -/
structure Region where
  base   : Nat
  size   : Nat
  widths : List Width
  kinds  : List AccessKind
  deriving DecidableEq, Repr

/-- The parameters fixed when the block is built (R8, R9, R31): which capabilities are built in, and the address map. -/
structure Config where
  hasM        : Bool
  hasA        : Bool
  hasZicsr    : Bool
  hasZifencei : Bool
  regions     : List Region
  deriving DecidableEq, Repr

/-- The reference platform: RAM at 0x00000000 to 0x0000FFFF for fetch, read and write (R52), with the full capability
set `RV32IMA_Zicsr_Zifencei` (R2). DESIGN CHOICE for `State.reset` (log entries 1 and 4; unsafe). -/
def Config.reference : Config where
  hasM := true
  hasA := true
  hasZicsr := true
  hasZifencei := true
  regions := [⟨0x00000000, 0x00010000, [.byte, .half, .word], [.fetch, .read, .write]⟩]

/-- RESET_PC of the reference platform (R341). DESIGN CHOICE for `State.reset` (log entry 4; unsafe). -/
def Config.referenceResetPc : Word := 0x00000000

/-- The parameter SC_FAIL_CLEARS_RESERVATION, false on this hardware (R8, R244). -/
def Config.scFailClearsReservation : Bool := false

/-- What a byte of memory reads as that nothing has written. DESIGN CHOICE (log entry 3; unsafe): the spec leaves memory
outside the load image unspecified (R33). -/
def Config.unwrittenByte : Byte := 0x00

/-- FREE VALUE: which of the harts that can move performs the next event, when the layer above has queued nothing
(R331; log entry 7). The argument is the step's tick. -/
opaque Config.freeHart : Nat → Nat

/-- FREE VALUE: whether only the fetch event of the chosen hart happens in this step, so that other harts can move before
the rest of its instruction (R55; log entry 7). -/
opaque Config.freeSplit : Nat → Bool

/-- FREE VALUE: what register x[r] of hart h holds after the reset input at a tick (R340; log entry 12). -/
opaque Config.freeResetReg : Nat → Nat → Reg → Word

/-- FREE VALUE: the legal value a CSR unit derives from the value written, for a CSR whose unit decides it
(R201; log entry 11). The arguments are the address, the old value and the value written. -/
opaque Config.csrLegal : CsrAddr → Word → Word → Word

/-- A CSR unit of which nothing is known but the interface of R201: which unit it is, and the state it is in, both encoded as
numbers (log entry 11). -/
structure OpenUnit where
  unit  : Nat
  state : Nat
  deriving DecidableEq, Repr

/-- FREE VALUE: what `csr_read(addr)` of an open unit answers, none being `Fault` (R201). The arguments are the unit, the
hart's number, the step's tick and the address. -/
opaque Config.openRead : OpenUnit → Nat → Nat → CsrAddr → Option Word

/-- FREE VALUE: the state an open unit is in after a `csr_read(addr)` that answered a value (R202). -/
opaque Config.openAfterRead : OpenUnit → Nat → Nat → CsrAddr → Nat

/-- FREE VALUE: what `csr_writable(addr)` of an open unit answers (R201). -/
opaque Config.openWritable : OpenUnit → Nat → Nat → CsrAddr → Bool

/-- FREE VALUE: the state an open unit is in after `csr_write(addr, v)` (R201). -/
opaque Config.openAfterWrite : OpenUnit → Nat → Nat → CsrAddr → Word → Nat

/-- FREE VALUE: what a CSR that changes by itself reads as (R326; log entry 11). The arguments are the hart's number, the
address and the step's tick. -/
opaque Config.csrLive : Nat → CsrAddr → Nat → Word

end Sys2Proof
end

