-- ==== Sys2Proof/WellFormed.lean ====
section
/-! DEFINITION. When an instruction is well formed: the immediate its kind reads has the shape rule R77 gives it
(30_encoding.md rules R71 and R77). Field widths are in the types. -/

namespace Sys2Proof

/-- LUI, AUIPC: bits 11:0 are zero. -/
def immUpper (imm : Word) : Bool := imm.setWidth 12 == 0#12

/-- JALR, loads, stores, OP-IMM: a 12-bit value, sign-extended. -/
def immSigned12 (imm : Word) : Bool := imm == (imm.setWidth 12).signExtend 32

/-- Branches: a 13-bit offset with bit 0 zero, sign-extended. -/
def immBranch (imm : Word) : Bool := imm == (imm.setWidth 13).signExtend 32 && !imm.getLsbD 0

/-- JAL: a 21-bit offset with bit 0 zero, sign-extended. -/
def immJump (imm : Word) : Bool := imm == (imm.setWidth 21).signExtend 32 && !imm.getLsbD 0

/-- SLLI, SRLI, SRAI: a 5-bit shift amount, zero-extended. -/
def immShamt (imm : Word) : Bool := imm == (imm.setWidth 5).setWidth 32

/-- CSRRWI, CSRRSI, CSRRCI: the five bits that are also in `rs1`, zero-extended. -/
def immUimm (rs1 : Reg) (imm : Word) : Bool := imm == rs1.setWidth 32

/-- Rule R71: the fields the kind reads hold what rule R77 says. -/
def Instr.wellFormed : Instr → Bool
  | .lui _ imm | .auipc _ imm => immUpper imm
  | .jal _ imm => immJump imm
  | .jalr _ _ imm => immSigned12 imm
  | .beq _ _ imm | .bne _ _ imm | .blt _ _ imm | .bge _ _ imm | .bltu _ _ imm | .bgeu _ _ imm => immBranch imm
  | .lb _ _ imm | .lh _ _ imm | .lw _ _ imm | .lbu _ _ imm | .lhu _ _ imm => immSigned12 imm
  | .sb _ _ imm | .sh _ _ imm | .sw _ _ imm => immSigned12 imm
  | .addi _ _ imm | .slti _ _ imm | .sltiu _ _ imm | .xori _ _ imm | .ori _ _ imm | .andi _ _ imm => immSigned12 imm
  | .slli _ _ imm | .srli _ _ imm | .srai _ _ imm => immShamt imm
  | .add .. | .sub .. | .sll .. | .slt .. | .sltu .. | .xor .. | .srl .. | .sra .. | .or .. | .and .. => true
  | .fence | .ecall | .ebreak | .fenceI => true
  | .csrrw .. | .csrrs .. | .csrrc .. => true
  | .csrrwi _ rs1 imm _ _ | .csrrsi _ rs1 imm _ _ | .csrrci _ rs1 imm _ _ => immUimm rs1 imm
  | .mul .. | .mulh .. | .mulhsu .. | .mulhu .. | .div .. | .divu .. | .rem .. | .remu .. => true
  | .lrW .. | .scW .. => true
  | .amoswapW .. | .amoaddW .. | .amoxorW .. | .amoandW .. | .amoorW .. => true
  | .amominW .. | .amomaxW .. | .amominuW .. | .amomaxuW .. => true

end Sys2Proof
end

