-- ==== Sys2Proof/Decode.lean ====
section
/-! DEFINITION. The reference decoder, from 32-bit words and from bytes to Operations, and after it the encoder
(30_encoding.md part 2, rules R80 to R92). The decoder is total: a word that is no instruction is rejected by name, and
the block then receives the kind INVALID (R74, R91). -/

namespace Sys2Proof

/-! ### Fields of a word (R80) -/

def opcodeOf (w : Word) : BitVec 7 := w.extractLsb' 0 7
def rdOf (w : Word) : Reg := w.extractLsb' 7 5
def funct3Of (w : Word) : BitVec 3 := w.extractLsb' 12 3
def rs1Of (w : Word) : Reg := w.extractLsb' 15 5
def rs2Of (w : Word) : Reg := w.extractLsb' 20 5
def funct7Of (w : Word) : BitVec 7 := w.extractLsb' 25 7
def funct5Of (w : Word) : BitVec 5 := w.extractLsb' 27 5
def csrOf (w : Word) : CsrAddr := w.extractLsb' 20 12
def aqOf (w : Word) : Bool := w.getLsbD 26
def rlOf (w : Word) : Bool := w.getLsbD 25

/-- The bits `v` at position `lo` of a word: the spec's concatenations are written as fields put side by side. -/
def place {n : Nat} (v : BitVec n) (lo : Nat) : Word := v.setWidth 32 <<< lo

/-! ### Immediate assembly (R81) -/

def immIOf (w : Word) : Word := (w.extractLsb' 20 12).signExtend 32
def shamtOf (w : Word) : Word := (w.extractLsb' 20 5).setWidth 32
def immSOf (w : Word) : Word :=
  ((place (w.extractLsb' 25 7) 5 ||| place (w.extractLsb' 7 5) 0).setWidth 12).signExtend 32
def immBOf (w : Word) : Word :=
  ((place (w.extractLsb' 31 1) 12 ||| place (w.extractLsb' 7 1) 11 ||| place (w.extractLsb' 25 6) 5
    ||| place (w.extractLsb' 8 4) 1).setWidth 13).signExtend 32
def immUOf (w : Word) : Word := place (w.extractLsb' 12 20) 12
def immJOf (w : Word) : Word :=
  ((place (w.extractLsb' 31 1) 20 ||| place (w.extractLsb' 12 8) 12 ||| place (w.extractLsb' 20 1) 11
    ||| place (w.extractLsb' 21 10) 1).setWidth 21).signExtend 32
def uimmOf (w : Word) : Word := (w.extractLsb' 15 5).setWidth 32

/-- Why a word is no instruction of the enabled set (R91); the block receives INVALID whichever it is. -/
inductive Reject where
  /-- Fewer than four bytes were given (R76). -/
  | truncated
  /-- `w[1:0]` is not 11: the 16-bit space (R82, R91). -/
  | compressedSpace
  /-- `w[6:0]` is none of the twelve major opcodes (R82). -/
  | unknownOpcode
  /-- A major opcode with function bits no row has (R83 to R90). -/
  | reservedFunction
  /-- An instruction of a capability that is not built in (R74). -/
  | capabilityOff (c : Capability)
  deriving DecidableEq, Repr

/-! ### One definition per major opcode (R83 to R90) -/

/-- BRANCH, opcode 0x63 (R83). -/
def decodeBranch (w : Word) : Except Reject Instr :=
  if funct3Of w = 0b000#3 then .ok (.beq (rs1Of w) (rs2Of w) (immBOf w))
  else if funct3Of w = 0b001#3 then .ok (.bne (rs1Of w) (rs2Of w) (immBOf w))
  else if funct3Of w = 0b100#3 then .ok (.blt (rs1Of w) (rs2Of w) (immBOf w))
  else if funct3Of w = 0b101#3 then .ok (.bge (rs1Of w) (rs2Of w) (immBOf w))
  else if funct3Of w = 0b110#3 then .ok (.bltu (rs1Of w) (rs2Of w) (immBOf w))
  else if funct3Of w = 0b111#3 then .ok (.bgeu (rs1Of w) (rs2Of w) (immBOf w))
  else .error .reservedFunction

/-- LOAD, opcode 0x03 (R84). -/
def decodeLoad (w : Word) : Except Reject Instr :=
  if funct3Of w = 0b000#3 then .ok (.lb (rdOf w) (rs1Of w) (immIOf w))
  else if funct3Of w = 0b001#3 then .ok (.lh (rdOf w) (rs1Of w) (immIOf w))
  else if funct3Of w = 0b010#3 then .ok (.lw (rdOf w) (rs1Of w) (immIOf w))
  else if funct3Of w = 0b100#3 then .ok (.lbu (rdOf w) (rs1Of w) (immIOf w))
  else if funct3Of w = 0b101#3 then .ok (.lhu (rdOf w) (rs1Of w) (immIOf w))
  else .error .reservedFunction

/-- STORE, opcode 0x23 (R84). -/
def decodeStore (w : Word) : Except Reject Instr :=
  if funct3Of w = 0b000#3 then .ok (.sb (rs1Of w) (rs2Of w) (immSOf w))
  else if funct3Of w = 0b001#3 then .ok (.sh (rs1Of w) (rs2Of w) (immSOf w))
  else if funct3Of w = 0b010#3 then .ok (.sw (rs1Of w) (rs2Of w) (immSOf w))
  else .error .reservedFunction

/-- OP-IMM, opcode 0x13 (R85). -/
def decodeOpImm (w : Word) : Except Reject Instr :=
  if funct3Of w = 0b000#3 then .ok (.addi (rdOf w) (rs1Of w) (immIOf w))
  else if funct3Of w = 0b010#3 then .ok (.slti (rdOf w) (rs1Of w) (immIOf w))
  else if funct3Of w = 0b011#3 then .ok (.sltiu (rdOf w) (rs1Of w) (immIOf w))
  else if funct3Of w = 0b100#3 then .ok (.xori (rdOf w) (rs1Of w) (immIOf w))
  else if funct3Of w = 0b110#3 then .ok (.ori (rdOf w) (rs1Of w) (immIOf w))
  else if funct3Of w = 0b111#3 then .ok (.andi (rdOf w) (rs1Of w) (immIOf w))
  else if funct3Of w = 0b001#3 then
    if funct7Of w = 0b0000000#7 then .ok (.slli (rdOf w) (rs1Of w) (shamtOf w))
    else .error .reservedFunction
  else
    if funct7Of w = 0b0000000#7 then .ok (.srli (rdOf w) (rs1Of w) (shamtOf w))
    else if funct7Of w = 0b0100000#7 then .ok (.srai (rdOf w) (rs1Of w) (shamtOf w))
    else .error .reservedFunction

/-- OP, opcode 0x33: the base set (R86) and multiply/divide (R89). -/
def decodeOp (w : Word) : Except Reject Instr :=
  if funct7Of w = 0b0000000#7 then
    if funct3Of w = 0b000#3 then .ok (.add (rdOf w) (rs1Of w) (rs2Of w))
    else if funct3Of w = 0b001#3 then .ok (.sll (rdOf w) (rs1Of w) (rs2Of w))
    else if funct3Of w = 0b010#3 then .ok (.slt (rdOf w) (rs1Of w) (rs2Of w))
    else if funct3Of w = 0b011#3 then .ok (.sltu (rdOf w) (rs1Of w) (rs2Of w))
    else if funct3Of w = 0b100#3 then .ok (.xor (rdOf w) (rs1Of w) (rs2Of w))
    else if funct3Of w = 0b101#3 then .ok (.srl (rdOf w) (rs1Of w) (rs2Of w))
    else if funct3Of w = 0b110#3 then .ok (.or (rdOf w) (rs1Of w) (rs2Of w))
    else .ok (.and (rdOf w) (rs1Of w) (rs2Of w))
  else if funct7Of w = 0b0100000#7 then
    if funct3Of w = 0b000#3 then .ok (.sub (rdOf w) (rs1Of w) (rs2Of w))
    else if funct3Of w = 0b101#3 then .ok (.sra (rdOf w) (rs1Of w) (rs2Of w))
    else .error .reservedFunction
  else if funct7Of w = 0b0000001#7 then
    if funct3Of w = 0b000#3 then .ok (.mul (rdOf w) (rs1Of w) (rs2Of w))
    else if funct3Of w = 0b001#3 then .ok (.mulh (rdOf w) (rs1Of w) (rs2Of w))
    else if funct3Of w = 0b010#3 then .ok (.mulhsu (rdOf w) (rs1Of w) (rs2Of w))
    else if funct3Of w = 0b011#3 then .ok (.mulhu (rdOf w) (rs1Of w) (rs2Of w))
    else if funct3Of w = 0b100#3 then .ok (.div (rdOf w) (rs1Of w) (rs2Of w))
    else if funct3Of w = 0b101#3 then .ok (.divu (rdOf w) (rs1Of w) (rs2Of w))
    else if funct3Of w = 0b110#3 then .ok (.rem (rdOf w) (rs1Of w) (rs2Of w))
    else .ok (.remu (rdOf w) (rs1Of w) (rs2Of w))
  else .error .reservedFunction

/-- MISC-MEM, opcode 0x0F; every bit outside opcode and funct3 is ignored (R87). -/
def decodeMiscMem (w : Word) : Except Reject Instr :=
  if funct3Of w = 0b000#3 then .ok .fence
  else if funct3Of w = 0b001#3 then .ok .fenceI
  else .error .reservedFunction

/-- SYSTEM, opcode 0x73 (R88). -/
def decodeSystem (w : Word) : Except Reject Instr :=
  if w = 0x00000073#32 then .ok .ecall
  else if w = 0x00100073#32 then .ok .ebreak
  else if funct3Of w = 0b001#3 then .ok (.csrrw (rdOf w) (rs1Of w) (csrOf w) w)
  else if funct3Of w = 0b010#3 then .ok (.csrrs (rdOf w) (rs1Of w) (csrOf w) w)
  else if funct3Of w = 0b011#3 then .ok (.csrrc (rdOf w) (rs1Of w) (csrOf w) w)
  else if funct3Of w = 0b101#3 then .ok (.csrrwi (rdOf w) (rs1Of w) (uimmOf w) (csrOf w) w)
  else if funct3Of w = 0b110#3 then .ok (.csrrsi (rdOf w) (rs1Of w) (uimmOf w) (csrOf w) w)
  else if funct3Of w = 0b111#3 then .ok (.csrrci (rdOf w) (rs1Of w) (uimmOf w) (csrOf w) w)
  else .error .reservedFunction

/-- AMO, opcode 0x2F, width .W only; LR.W needs rs2 = 0 (R90). -/
def decodeAmo (w : Word) : Except Reject Instr :=
  if funct3Of w = 0b010#3 then
    if funct5Of w = 0b00010#5 then
      if rs2Of w = 0b00000#5 then .ok (.lrW (rdOf w) (rs1Of w) (aqOf w) (rlOf w)) else .error .reservedFunction
    else if funct5Of w = 0b00011#5 then .ok (.scW (rdOf w) (rs1Of w) (rs2Of w) (aqOf w) (rlOf w))
    else if funct5Of w = 0b00001#5 then .ok (.amoswapW (rdOf w) (rs1Of w) (rs2Of w) (aqOf w) (rlOf w))
    else if funct5Of w = 0b00000#5 then .ok (.amoaddW (rdOf w) (rs1Of w) (rs2Of w) (aqOf w) (rlOf w))
    else if funct5Of w = 0b00100#5 then .ok (.amoxorW (rdOf w) (rs1Of w) (rs2Of w) (aqOf w) (rlOf w))
    else if funct5Of w = 0b01100#5 then .ok (.amoandW (rdOf w) (rs1Of w) (rs2Of w) (aqOf w) (rlOf w))
    else if funct5Of w = 0b01000#5 then .ok (.amoorW (rdOf w) (rs1Of w) (rs2Of w) (aqOf w) (rlOf w))
    else if funct5Of w = 0b10000#5 then .ok (.amominW (rdOf w) (rs1Of w) (rs2Of w) (aqOf w) (rlOf w))
    else if funct5Of w = 0b10100#5 then .ok (.amomaxW (rdOf w) (rs1Of w) (rs2Of w) (aqOf w) (rlOf w))
    else if funct5Of w = 0b11000#5 then .ok (.amominuW (rdOf w) (rs1Of w) (rs2Of w) (aqOf w) (rlOf w))
    else if funct5Of w = 0b11100#5 then .ok (.amomaxuW (rdOf w) (rs1Of w) (rs2Of w) (aqOf w) (rlOf w))
    else .error .reservedFunction
  else .error .reservedFunction

/-- The decoder of the full instruction set (R82). -/
def decodeFull (w : Word) : Except Reject Instr :=
  if w.extractLsb' 0 2 ≠ 0b11#2 then .error .compressedSpace
  else if opcodeOf w = 0x37#7 then .ok (.lui (rdOf w) (immUOf w))
  else if opcodeOf w = 0x17#7 then .ok (.auipc (rdOf w) (immUOf w))
  else if opcodeOf w = 0x6F#7 then .ok (.jal (rdOf w) (immJOf w))
  else if opcodeOf w = 0x67#7 then
    if funct3Of w = 0b000#3 then .ok (.jalr (rdOf w) (rs1Of w) (immIOf w)) else .error .reservedFunction
  else if opcodeOf w = 0x63#7 then decodeBranch w
  else if opcodeOf w = 0x03#7 then decodeLoad w
  else if opcodeOf w = 0x23#7 then decodeStore w
  else if opcodeOf w = 0x13#7 then decodeOpImm w
  else if opcodeOf w = 0x33#7 then decodeOp w
  else if opcodeOf w = 0x0F#7 then decodeMiscMem w
  else if opcodeOf w = 0x73#7 then decodeSystem w
  else if opcodeOf w = 0x2F#7 then decodeAmo w
  else .error .unknownOpcode

/-- Whether a capability is built in (R9, R73). -/
def Config.has (cfg : Config) : Capability → Bool
  | .base => true
  | .m => cfg.hasM
  | .a => cfg.hasA
  | .zicsr => cfg.hasZicsr
  | .zifencei => cfg.hasZifencei

/-- The decoder of the enabled set: an instruction of a capability that is not built in is no instruction (R74). -/
def decodeWord (cfg : Config) (w : Word) : Except Reject Instr :=
  match decodeFull w with
  | .ok i => if cfg.has i.capability then .ok i else .error (.capabilityOff i.capability)
  | .error r => .error r

/-! ### The Operation record (R70 to R72, R80) -/

/-- The kind of an instruction. -/
def Instr.kind : Instr → Kind
  | .lui .. => .lui
  | .auipc .. => .auipc
  | .jal .. => .jal
  | .jalr .. => .jalr
  | .beq .. => .beq
  | .bne .. => .bne
  | .blt .. => .blt
  | .bge .. => .bge
  | .bltu .. => .bltu
  | .bgeu .. => .bgeu
  | .lb .. => .lb
  | .lh .. => .lh
  | .lw .. => .lw
  | .lbu .. => .lbu
  | .lhu .. => .lhu
  | .sb .. => .sb
  | .sh .. => .sh
  | .sw .. => .sw
  | .addi .. => .addi
  | .slti .. => .slti
  | .sltiu .. => .sltiu
  | .xori .. => .xori
  | .ori .. => .ori
  | .andi .. => .andi
  | .slli .. => .slli
  | .srli .. => .srli
  | .srai .. => .srai
  | .add .. => .add
  | .sub .. => .sub
  | .sll .. => .sll
  | .slt .. => .slt
  | .sltu .. => .sltu
  | .xor .. => .xor
  | .srl .. => .srl
  | .sra .. => .sra
  | .or .. => .or
  | .and .. => .and
  | .fence => .fence
  | .ecall => .ecall
  | .ebreak => .ebreak
  | .fenceI => .fenceI
  | .csrrw .. => .csrrw
  | .csrrs .. => .csrrs
  | .csrrc .. => .csrrc
  | .csrrwi .. => .csrrwi
  | .csrrsi .. => .csrrsi
  | .csrrci .. => .csrrci
  | .mul .. => .mul
  | .mulh .. => .mulh
  | .mulhsu .. => .mulhsu
  | .mulhu .. => .mulhu
  | .div .. => .div
  | .divu .. => .divu
  | .rem .. => .rem
  | .remu .. => .remu
  | .lrW .. => .lrW
  | .scW .. => .scW
  | .amoswapW .. => .amoswapW
  | .amoaddW .. => .amoaddW
  | .amoxorW .. => .amoxorW
  | .amoandW .. => .amoandW
  | .amoorW .. => .amoorW
  | .amominW .. => .amominW
  | .amomaxW .. => .amomaxW
  | .amominuW .. => .amominuW
  | .amomaxuW .. => .amomaxuW

/-- The immediate an instruction carries; 0 for a kind that reads none (log entry 14). -/
def Instr.imm : Instr → Word
  | .lui _ imm | .auipc _ imm | .jal _ imm | .jalr _ _ imm | .beq _ _ imm | .bne _ _ imm | .blt _ _ imm => imm
  | .bge _ _ imm | .bltu _ _ imm | .bgeu _ _ imm | .lb _ _ imm | .lh _ _ imm | .lw _ _ imm | .lbu _ _ imm => imm
  | .lhu _ _ imm | .sb _ _ imm | .sh _ _ imm | .sw _ _ imm | .addi _ _ imm | .slti _ _ imm | .sltiu _ _ imm => imm
  | .xori _ _ imm | .ori _ _ imm | .andi _ _ imm | .slli _ _ imm | .srli _ _ imm | .srai _ _ imm => imm
  | .csrrwi _ _ imm _ _ | .csrrsi _ _ imm _ _ | .csrrci _ _ imm _ _ => imm
  | .add .. | .sub .. | .sll .. | .slt .. | .sltu .. | .xor .. | .srl .. | .sra .. | .or .. | .and .. | .fence => 0
  | .ecall | .ebreak | .fenceI | .csrrw .. | .csrrs .. | .csrrc .. | .mul .. | .mulh .. | .mulhsu .. => 0
  | .mulhu .. | .div .. | .divu .. | .rem .. | .remu .. | .lrW .. | .scW .. | .amoswapW .. | .amoaddW .. => 0
  | .amoxorW .. | .amoandW .. | .amoorW .. | .amominW .. | .amomaxW .. | .amominuW .. | .amomaxuW .. => 0

/-- The instruction a record stands for, with the fields its kind reads (R72); none for INVALID. -/
def Operation.instr (op : Operation) : Option Instr :=
  match op.kind with
  | .lui => some (.lui op.rd op.imm)
  | .auipc => some (.auipc op.rd op.imm)
  | .jal => some (.jal op.rd op.imm)
  | .jalr => some (.jalr op.rd op.rs1 op.imm)
  | .beq => some (.beq op.rs1 op.rs2 op.imm)
  | .bne => some (.bne op.rs1 op.rs2 op.imm)
  | .blt => some (.blt op.rs1 op.rs2 op.imm)
  | .bge => some (.bge op.rs1 op.rs2 op.imm)
  | .bltu => some (.bltu op.rs1 op.rs2 op.imm)
  | .bgeu => some (.bgeu op.rs1 op.rs2 op.imm)
  | .lb => some (.lb op.rd op.rs1 op.imm)
  | .lh => some (.lh op.rd op.rs1 op.imm)
  | .lw => some (.lw op.rd op.rs1 op.imm)
  | .lbu => some (.lbu op.rd op.rs1 op.imm)
  | .lhu => some (.lhu op.rd op.rs1 op.imm)
  | .sb => some (.sb op.rs1 op.rs2 op.imm)
  | .sh => some (.sh op.rs1 op.rs2 op.imm)
  | .sw => some (.sw op.rs1 op.rs2 op.imm)
  | .addi => some (.addi op.rd op.rs1 op.imm)
  | .slti => some (.slti op.rd op.rs1 op.imm)
  | .sltiu => some (.sltiu op.rd op.rs1 op.imm)
  | .xori => some (.xori op.rd op.rs1 op.imm)
  | .ori => some (.ori op.rd op.rs1 op.imm)
  | .andi => some (.andi op.rd op.rs1 op.imm)
  | .slli => some (.slli op.rd op.rs1 op.imm)
  | .srli => some (.srli op.rd op.rs1 op.imm)
  | .srai => some (.srai op.rd op.rs1 op.imm)
  | .add => some (.add op.rd op.rs1 op.rs2)
  | .sub => some (.sub op.rd op.rs1 op.rs2)
  | .sll => some (.sll op.rd op.rs1 op.rs2)
  | .slt => some (.slt op.rd op.rs1 op.rs2)
  | .sltu => some (.sltu op.rd op.rs1 op.rs2)
  | .xor => some (.xor op.rd op.rs1 op.rs2)
  | .srl => some (.srl op.rd op.rs1 op.rs2)
  | .sra => some (.sra op.rd op.rs1 op.rs2)
  | .or => some (.or op.rd op.rs1 op.rs2)
  | .and => some (.and op.rd op.rs1 op.rs2)
  | .fence => some .fence
  | .ecall => some .ecall
  | .ebreak => some .ebreak
  | .fenceI => some .fenceI
  | .csrrw => some (.csrrw op.rd op.rs1 op.csr op.raw)
  | .csrrs => some (.csrrs op.rd op.rs1 op.csr op.raw)
  | .csrrc => some (.csrrc op.rd op.rs1 op.csr op.raw)
  | .csrrwi => some (.csrrwi op.rd op.rs1 op.imm op.csr op.raw)
  | .csrrsi => some (.csrrsi op.rd op.rs1 op.imm op.csr op.raw)
  | .csrrci => some (.csrrci op.rd op.rs1 op.imm op.csr op.raw)
  | .mul => some (.mul op.rd op.rs1 op.rs2)
  | .mulh => some (.mulh op.rd op.rs1 op.rs2)
  | .mulhsu => some (.mulhsu op.rd op.rs1 op.rs2)
  | .mulhu => some (.mulhu op.rd op.rs1 op.rs2)
  | .div => some (.div op.rd op.rs1 op.rs2)
  | .divu => some (.divu op.rd op.rs1 op.rs2)
  | .rem => some (.rem op.rd op.rs1 op.rs2)
  | .remu => some (.remu op.rd op.rs1 op.rs2)
  | .lrW => some (.lrW op.rd op.rs1 op.aq op.rl)
  | .scW => some (.scW op.rd op.rs1 op.rs2 op.aq op.rl)
  | .amoswapW => some (.amoswapW op.rd op.rs1 op.rs2 op.aq op.rl)
  | .amoaddW => some (.amoaddW op.rd op.rs1 op.rs2 op.aq op.rl)
  | .amoxorW => some (.amoxorW op.rd op.rs1 op.rs2 op.aq op.rl)
  | .amoandW => some (.amoandW op.rd op.rs1 op.rs2 op.aq op.rl)
  | .amoorW => some (.amoorW op.rd op.rs1 op.rs2 op.aq op.rl)
  | .amominW => some (.amominW op.rd op.rs1 op.rs2 op.aq op.rl)
  | .amomaxW => some (.amomaxW op.rd op.rs1 op.rs2 op.aq op.rl)
  | .amominuW => some (.amominuW op.rd op.rs1 op.rs2 op.aq op.rl)
  | .amomaxuW => some (.amomaxuW op.rd op.rs1 op.rs2 op.aq op.rl)
  | .invalid => none

/-- Rule R71: the fields the record's kind reads hold what rule R77 says. -/
def Operation.wellFormed (op : Operation) : Bool :=
  match op.instr with
  | some i => i.wellFormed
  | none => true

/-- The record with a kind and an immediate and every other field filled from the word, whether or not the kind reads it
(R80). -/
def recordOf (w : Word) (kind : Kind) (imm : Word) : Operation where
  kind := kind
  rd := rdOf w
  rs1 := rs1Of w
  rs2 := rs2Of w
  imm := imm
  csr := csrOf w
  aq := aqOf w
  rl := rlOf w
  funct := funct7Of w ++ funct3Of w
  raw := w

/-- The Operation the block receives for a word: INVALID with `raw = w` where the word is no instruction (R91). -/
def decodeOperation (cfg : Config) (w : Word) : Operation :=
  match decodeWord cfg w with
  | .ok i => recordOf w i.kind i.imm
  | .error _ => recordOf w .invalid 0

/-- Four bytes as a word, the first byte least significant (R48, R79). -/
def wordOfBytes (b0 b1 b2 b3 : Byte) : Word := place b3 24 ||| place b2 16 ||| place b1 8 ||| place b0 0

/-- The decoder on bytes as they lie in memory: the instruction and the bytes after it (R48, R76, R79). -/
def decodeBytes (cfg : Config) : List Byte → Except Reject (Instr × List Byte)
  | b0 :: b1 :: b2 :: b3 :: rest =>
    match decodeWord cfg (wordOfBytes b0 b1 b2 b3) with
    | .ok i => .ok (i, rest)
    | .error r => .error r
  | _ => .error .truncated

/-- The instruction word of the table row's bits: the low `nbits` bits of `w`, zeros above. -/
def tableWord (nbits w : Nat) : Word := BitVec.ofNat 32 (w % 2 ^ nbits)

/-- The bytes of a word in memory order (R48). -/
def bytesOfWord (w : Word) : List Byte :=
  [w.extractLsb' 0 8, w.extractLsb' 8 8, w.extractLsb' 16 8, w.extractLsb' 24 8]

/-- What the decoder reads from an instruction whose bits are `w`, under the full capability set. -/
def decodeTableWord (nbits w : Nat) : Option Instr :=
  match decodeBytes Config.reference (bytesOfWord (tableWord nbits w)) with
  | .ok (i, _) => some i
  | .error _ => none

/-! ### The encoder, from the same tables (R80 to R90) -/

def encR (f7 : BitVec 7) (rs2 rs1 : Reg) (f3 : BitVec 3) (rd : Reg) (op : BitVec 7) : Word :=
  place f7 25 ||| place rs2 20 ||| place rs1 15 ||| place f3 12 ||| place rd 7 ||| place op 0

def encI (imm : Word) (rs1 : Reg) (f3 : BitVec 3) (rd : Reg) (op : BitVec 7) : Word :=
  place (imm.extractLsb' 0 12) 20 ||| place rs1 15 ||| place f3 12 ||| place rd 7 ||| place op 0

def encShamt (f7 : BitVec 7) (imm : Word) (rs1 : Reg) (f3 : BitVec 3) (rd : Reg) (op : BitVec 7) : Word :=
  encR f7 (imm.extractLsb' 0 5) rs1 f3 rd op

def encS (imm : Word) (rs2 rs1 : Reg) (f3 : BitVec 3) (op : BitVec 7) : Word :=
  place (imm.extractLsb' 5 7) 25 ||| place rs2 20 ||| place rs1 15 ||| place f3 12 ||| place (imm.extractLsb' 0 5) 7
    ||| place op 0

def encB (imm : Word) (rs2 rs1 : Reg) (f3 : BitVec 3) (op : BitVec 7) : Word :=
  place (imm.extractLsb' 12 1) 31 ||| place (imm.extractLsb' 5 6) 25 ||| place rs2 20 ||| place rs1 15 ||| place f3 12
    ||| place (imm.extractLsb' 1 4) 8 ||| place (imm.extractLsb' 11 1) 7 ||| place op 0

def encU (imm : Word) (rd : Reg) (op : BitVec 7) : Word :=
  place (imm.extractLsb' 12 20) 12 ||| place rd 7 ||| place op 0

def encJ (imm : Word) (rd : Reg) (op : BitVec 7) : Word :=
  place (imm.extractLsb' 20 1) 31 ||| place (imm.extractLsb' 1 10) 21 ||| place (imm.extractLsb' 11 1) 20
    ||| place (imm.extractLsb' 12 8) 12 ||| place rd 7 ||| place op 0

def encAmo (f5 : BitVec 5) (aq rl : Bool) (rs2 rs1 : Reg) (rd : Reg) : Word :=
  place f5 27 ||| place (BitVec.ofBool aq) 26 ||| place (BitVec.ofBool rl) 25 ||| place rs2 20 ||| place rs1 15
    ||| place 0b010#3 12 ||| place rd 7 ||| place 0x2F#7 0

def encCsr (csr : CsrAddr) (rs1 : Reg) (f3 : BitVec 3) (rd : Reg) : Word :=
  place csr 20 ||| place rs1 15 ||| place f3 12 ||| place rd 7 ||| place 0x73#7 0

/-- The word of an instruction. The bits FENCE and FENCE.I ignore are zero (R87). -/
def encode : Instr → Word
  | .lui rd imm => encU imm rd 0x37#7
  | .auipc rd imm => encU imm rd 0x17#7
  | .jal rd imm => encJ imm rd 0x6F#7
  | .jalr rd rs1 imm => encI imm rs1 0b000#3 rd 0x67#7
  | .beq rs1 rs2 imm => encB imm rs2 rs1 0b000#3 0x63#7
  | .bne rs1 rs2 imm => encB imm rs2 rs1 0b001#3 0x63#7
  | .blt rs1 rs2 imm => encB imm rs2 rs1 0b100#3 0x63#7
  | .bge rs1 rs2 imm => encB imm rs2 rs1 0b101#3 0x63#7
  | .bltu rs1 rs2 imm => encB imm rs2 rs1 0b110#3 0x63#7
  | .bgeu rs1 rs2 imm => encB imm rs2 rs1 0b111#3 0x63#7
  | .lb rd rs1 imm => encI imm rs1 0b000#3 rd 0x03#7
  | .lh rd rs1 imm => encI imm rs1 0b001#3 rd 0x03#7
  | .lw rd rs1 imm => encI imm rs1 0b010#3 rd 0x03#7
  | .lbu rd rs1 imm => encI imm rs1 0b100#3 rd 0x03#7
  | .lhu rd rs1 imm => encI imm rs1 0b101#3 rd 0x03#7
  | .sb rs1 rs2 imm => encS imm rs2 rs1 0b000#3 0x23#7
  | .sh rs1 rs2 imm => encS imm rs2 rs1 0b001#3 0x23#7
  | .sw rs1 rs2 imm => encS imm rs2 rs1 0b010#3 0x23#7
  | .addi rd rs1 imm => encI imm rs1 0b000#3 rd 0x13#7
  | .slti rd rs1 imm => encI imm rs1 0b010#3 rd 0x13#7
  | .sltiu rd rs1 imm => encI imm rs1 0b011#3 rd 0x13#7
  | .xori rd rs1 imm => encI imm rs1 0b100#3 rd 0x13#7
  | .ori rd rs1 imm => encI imm rs1 0b110#3 rd 0x13#7
  | .andi rd rs1 imm => encI imm rs1 0b111#3 rd 0x13#7
  | .slli rd rs1 imm => encShamt 0b0000000#7 imm rs1 0b001#3 rd 0x13#7
  | .srli rd rs1 imm => encShamt 0b0000000#7 imm rs1 0b101#3 rd 0x13#7
  | .srai rd rs1 imm => encShamt 0b0100000#7 imm rs1 0b101#3 rd 0x13#7
  | .add rd rs1 rs2 => encR 0b0000000#7 rs2 rs1 0b000#3 rd 0x33#7
  | .sub rd rs1 rs2 => encR 0b0100000#7 rs2 rs1 0b000#3 rd 0x33#7
  | .sll rd rs1 rs2 => encR 0b0000000#7 rs2 rs1 0b001#3 rd 0x33#7
  | .slt rd rs1 rs2 => encR 0b0000000#7 rs2 rs1 0b010#3 rd 0x33#7
  | .sltu rd rs1 rs2 => encR 0b0000000#7 rs2 rs1 0b011#3 rd 0x33#7
  | .xor rd rs1 rs2 => encR 0b0000000#7 rs2 rs1 0b100#3 rd 0x33#7
  | .srl rd rs1 rs2 => encR 0b0000000#7 rs2 rs1 0b101#3 rd 0x33#7
  | .sra rd rs1 rs2 => encR 0b0100000#7 rs2 rs1 0b101#3 rd 0x33#7
  | .or rd rs1 rs2 => encR 0b0000000#7 rs2 rs1 0b110#3 rd 0x33#7
  | .and rd rs1 rs2 => encR 0b0000000#7 rs2 rs1 0b111#3 rd 0x33#7
  | .fence => 0x0000000F#32
  | .ecall => 0x00000073#32
  | .ebreak => 0x00100073#32
  | .fenceI => 0x0000100F#32
  | .csrrw rd rs1 csr _ => encCsr csr rs1 0b001#3 rd
  | .csrrs rd rs1 csr _ => encCsr csr rs1 0b010#3 rd
  | .csrrc rd rs1 csr _ => encCsr csr rs1 0b011#3 rd
  | .csrrwi rd rs1 _ csr _ => encCsr csr rs1 0b101#3 rd
  | .csrrsi rd rs1 _ csr _ => encCsr csr rs1 0b110#3 rd
  | .csrrci rd rs1 _ csr _ => encCsr csr rs1 0b111#3 rd
  | .mul rd rs1 rs2 => encR 0b0000001#7 rs2 rs1 0b000#3 rd 0x33#7
  | .mulh rd rs1 rs2 => encR 0b0000001#7 rs2 rs1 0b001#3 rd 0x33#7
  | .mulhsu rd rs1 rs2 => encR 0b0000001#7 rs2 rs1 0b010#3 rd 0x33#7
  | .mulhu rd rs1 rs2 => encR 0b0000001#7 rs2 rs1 0b011#3 rd 0x33#7
  | .div rd rs1 rs2 => encR 0b0000001#7 rs2 rs1 0b100#3 rd 0x33#7
  | .divu rd rs1 rs2 => encR 0b0000001#7 rs2 rs1 0b101#3 rd 0x33#7
  | .rem rd rs1 rs2 => encR 0b0000001#7 rs2 rs1 0b110#3 rd 0x33#7
  | .remu rd rs1 rs2 => encR 0b0000001#7 rs2 rs1 0b111#3 rd 0x33#7
  | .lrW rd rs1 aq rl => encAmo 0b00010#5 aq rl 0b00000#5 rs1 rd
  | .scW rd rs1 rs2 aq rl => encAmo 0b00011#5 aq rl rs2 rs1 rd
  | .amoswapW rd rs1 rs2 aq rl => encAmo 0b00001#5 aq rl rs2 rs1 rd
  | .amoaddW rd rs1 rs2 aq rl => encAmo 0b00000#5 aq rl rs2 rs1 rd
  | .amoxorW rd rs1 rs2 aq rl => encAmo 0b00100#5 aq rl rs2 rs1 rd
  | .amoandW rd rs1 rs2 aq rl => encAmo 0b01100#5 aq rl rs2 rs1 rd
  | .amoorW rd rs1 rs2 aq rl => encAmo 0b01000#5 aq rl rs2 rs1 rd
  | .amominW rd rs1 rs2 aq rl => encAmo 0b10000#5 aq rl rs2 rs1 rd
  | .amomaxW rd rs1 rs2 aq rl => encAmo 0b10100#5 aq rl rs2 rs1 rd
  | .amominuW rd rs1 rs2 aq rl => encAmo 0b11000#5 aq rl rs2 rs1 rd
  | .amomaxuW rd rs1 rs2 aq rl => encAmo 0b11100#5 aq rl rs2 rs1 rd

/-- Whether the `raw` field of a kind that carries it is the word the instruction was decoded from (R70). For an
Operation built by hand `raw` may be any value (R71), so this is no part of `Instr.wellFormed`. -/
def Instr.rawMatches (i : Instr) : Bool :=
  match i with
  | .csrrw _ _ _ raw | .csrrs _ _ _ raw | .csrrc _ _ _ raw => raw == encode i
  | .csrrwi _ _ _ _ raw | .csrrsi _ _ _ _ raw | .csrrci _ _ _ _ raw => raw == encode i
  | .lui .. | .auipc .. | .jal .. | .jalr .. => true
  | .beq .. | .bne .. | .blt .. | .bge .. | .bltu .. | .bgeu .. => true
  | .lb .. | .lh .. | .lw .. | .lbu .. | .lhu .. | .sb .. | .sh .. | .sw .. => true
  | .addi .. | .slti .. | .sltiu .. | .xori .. | .ori .. | .andi .. | .slli .. | .srli .. | .srai .. => true
  | .add .. | .sub .. | .sll .. | .slt .. | .sltu .. | .xor .. | .srl .. | .sra .. | .or .. | .and .. => true
  | .fence | .ecall | .ebreak | .fenceI => true
  | .mul .. | .mulh .. | .mulhsu .. | .mulhu .. | .div .. | .divu .. | .rem .. | .remu .. => true
  | .lrW .. | .scW .. | .amoswapW .. | .amoaddW .. | .amoxorW .. | .amoandW .. | .amoorW .. => true
  | .amominW .. | .amomaxW .. | .amominuW .. | .amomaxuW .. => true

end Sys2Proof
end

