-- ==== Sys2Proof/Machine/State.lean ====
section
/-! DEFINITION. The machine's state as plain data (10_state.md rules R20 to R33), the causes and outcomes that are stored
in it (40_dispatch.md rule R101, 60_exceptions.md rule R300), the stops, and the state after reset. -/

namespace Sys2Proof.Machine

/-- The causes of a trap (R300). -/
inductive Cause where
  | instrAddrMisaligned
  | instrAccessFault
  | illegalInstruction
  | breakpoint
  | loadAddrMisaligned
  | loadAccessFault
  | storeAddrMisaligned
  | storeAccessFault
  | environmentCall
  deriving DecidableEq, Repr

/-- The exception code of a cause (R300). -/
def Cause.code : Cause → Nat
  | .instrAddrMisaligned => 0
  | .instrAccessFault => 1
  | .illegalInstruction => 2
  | .breakpoint => 3
  | .loadAddrMisaligned => 4
  | .loadAccessFault => 5
  | .storeAddrMisaligned => 6
  | .storeAccessFault => 7
  | .environmentCall => 11

/-- The Outcome of a call of `execute` or `execute_op`, with the spec's three variants Continue, Jump and Trap (R101). -/
inductive Conclusion where
  | continued
  | jumped (target : Word)
  | trapped (cause : Cause) (value : Word)
  deriving DecidableEq, Repr

/-- A reservation: the byte address and the number of bytes reserved (R26). -/
structure Reservation where
  addr : Word
  size : Nat
  deriving DecidableEq, Repr

/-- What a CSR stores when a value is written to it (R201; log entry 11). -/
inductive CsrLegal where
  /-- The value itself, as the reference unit does (R211). -/
  | whole
  /-- The written bits under the mask; the others are hard-wired. -/
  | masked (mask : Word)
  /-- The legal value the unit derives: a free value. -/
  | legalised
  deriving DecidableEq, Repr

/-- One CSR of a hart's CSR unit (R201, R211; log entry 11). -/
structure Csr where
  addr     : CsrAddr
  value    : Word
  readable : Bool
  writable : Bool
  legal    : CsrLegal
  /-- The unit changes the value by itself (a counter, R326): a read gives a free value. -/
  live     : Bool
  deriving DecidableEq, Repr

/-- The CSR unit of a hart, the OPEN parameter `CsrUnit` together with its state (R8, R201). -/
inductive CsrUnit where
  /-- A unit whose behaviour is written out as a table of CSRs, the reference unit of R211 among them. -/
  | table (csrs : List Csr)
  /-- Any other unit: what it answers and how reads and writes change it are free values. -/
  | other (u : OpenUnit)
  deriving DecidableEq, Repr

/-- The registers x1 to x31. x0 has no storage (R21). -/
abbrev RegFile := Vector Word 31

/-- The state of one hart (R20). -/
structure Hart where
  /-- The address of the instruction being executed (R24). -/
  pc       : Word
  /-- x1 to x31 (R21). -/
  regs     : RegFile
  /-- The reservation slot `Resv[h]` (R26). -/
  resv     : Option Reservation
  /-- The sticky defect flag (R28). -/
  defect   : Bool
  /-- The hart's CSR unit with its CSR file (R29, R201). -/
  csrs     : CsrUnit
  /-- The parameter RESET_PC of this hart (R8, R33). -/
  resetPc  : Word
  /-- The reference driver's terminal state `Trapped(cause, value)` (R112). -/
  halted   : Option (Cause × Word)
  /-- The Outcome the hart's last call returned; none before the first call and where a call returned none (R101, R108). The
  model's own field (log entry 6). -/
  outcome  : Option Conclusion
  /-- The Operation of an `execute` whose fetch event has happened and whose second event has not (R55). The model's own
  field (log entry 8). -/
  fetched  : Option Operation
  deriving DecidableEq, Repr

/-- What the layer above does next: a call, a signal, or a store by an agent that is no hart (log entry 7). -/
inductive Input where
  /-- The driver of hart h calls `execute` and the call runs to its end (R103, R112). -/
  | run (h : Nat)
  /-- One event of hart h: the fetch of an `execute`, or the rest of one whose fetch is done (R55). -/
  | event (h : Nat)
  /-- A direct call `execute_op(h, op)` (R6, R104). -/
  | call (h : Nat) (op : Operation)
  /-- A context switch of hart h is signalled (R314). -/
  | contextSwitch (h : Nat)
  /-- The caller's trap logic writes the pc of hart h and lets its driver go on (R315; log entries 9 and 24). -/
  | resume (h : Nat) (pc : Word)
  /-- The reset input (R340). -/
  | reset
  /-- The CSR unit of hart h changes with no request of the block: its own reset behaviour, for one (R33, R340; log entry 22). -/
  | csrUnit (h : Nat) (unit : CsrUnit)
  /-- An agent that is no hart writes memory through the store path (R60). -/
  | agentWrite (addr : Word) (width : Width) (value : Word)
  deriving DecidableEq, Repr

/-- Bytes at addresses, strictly rising, none equal to what an unlisted address reads as. -/
abbrev Memory := List Host.Cell

/-- The canonical form of memory: 32-bit addresses, strictly rising, no entry that an unlisted address would read as. -/
abbrev Memory.wf (m : Memory) : Prop :=
  m.Pairwise (fun c d => c.1 < d.1) ∧ ∀ c ∈ m, c.1 < 2 ^ 32 ∧ c.2 ≠ Config.unwrittenByte

/-- The state of the whole system (R20): the harts in number order with the one the next call acts on in the middle, the
memory they share, the parameters, and the model's own queue of inputs and counter of free values. The reservation table
of R27 is the slots of all harts. -/
structure State where
  /-- The parameters (R8, R31); no step writes them. -/
  cfg    : Config
  /-- The shared byte array `Mem` (R40). -/
  mem    : Memory
  /-- The harts with lower numbers than `hart`, in order: hart `below.length` is `hart`. -/
  below  : List Hart
  /-- The hart a handler acts on. -/
  hart   : Hart
  /-- The harts with higher numbers, in order. -/
  above  : List Hart
  /-- What the layer above does next, first first. The model's own field (log entry 7). -/
  inputs : List Input
  /-- Counts the steps and picks each step's free values. The model's own field (log entry 7). -/
  tick   : Nat
  deriving DecidableEq, Repr

/-- How the machine stops with a fault. -/
inductive Fault where
  /-- Raised by the step when nothing is queued and every hart is halted by its driver: the end of a run, a final state
  (R112). Safe: the model claims nothing after it. -/
  | allHalted
  deriving DecidableEq, Repr

/-- How the model declines a call. -/
inductive Refusal where
  /-- Raised by an arm of `exec` whose instruction has no meaning yet. Safe. -/
  | notModelled (mnemonic : String)
  /-- Raised by a call on a hart whose defect flag is set, and by the step when no hart can move and one is defective: the
  spec says a model treats this as a refusal (R104, R108, R112). Safe. -/
  | defect
  /-- Raised by the step when an input would reach a hart in the middle of an `execute` (R111, R314, R340): the spec defines
  nothing for it (U16). Safe. -/
  | overlappingCall
  /-- Raised by the step when an input names a hart that does not exist (R328). Safe. -/
  | noSuchHart
  deriving DecidableEq, Repr

/-- The reference CSR unit of hart h (R211). The scratch register's reset value is a DESIGN CHOICE (log entry 11; unsafe). -/
def referenceCsrs (h : Nat) : List Csr :=
  [⟨0x340, 0, true, true, .whole, false⟩, ⟨0xF14, BitVec.ofNat 32 h, true, false, .whole, false⟩]

/-- The reference CSR unit of hart h as a unit. -/
def CsrUnit.reference (h : Nat) : CsrUnit := .table (referenceCsrs h)

/-- A hart right after reset, with its RESET_PC and its CSR unit (R33, R340, R341). x1 to x31 are 0 by DESIGN CHOICE (log
entry 2; unsafe). -/
def Hart.atReset (resetPc : Word) (unit : CsrUnit) : Hart where
  pc := resetPc
  regs := Vector.replicate 31 0
  resv := none
  defect := false
  csrs := unit
  resetPc := resetPc
  halted := none
  outcome := none
  fetched := none

/-- A system right after reset, for every choice of the open parameters: the configuration, the CSR unit of each hart, RESET_PC
of hart 0, and RESET_PC of the harts after it (R8, R33). -/
def State.resetOf (cfg : Config) (units : Nat → CsrUnit) (pc0 : Word) (pcs : List Word) : State where
  cfg := cfg
  mem := []
  below := []
  hart := Hart.atReset pc0 (units 0)
  above := pcs.mapIdx (fun k pc => Hart.atReset pc (units (k + 1)))
  inputs := []
  tick := 0

/-- The machine right after reset: one hart on the reference platform with the full capability set and the reference CSR unit
(R33, R52, R211, R341; log entries 1, 4, 5 and 11). -/
def State.reset : State := State.resetOf Config.reference CsrUnit.reference Config.referenceResetPc []

end Sys2Proof.Machine
end

