-- ==== Sys2Proof/Machine/Ops.lean ====
section
/-! DEFINITION. The named operations over registers, memory, the reservation table and the CSR unit; taking a trap; and
what `execute_op` does around a handler (00_scope.md rule R11, 20_memory.md rules R43 to R52, 40_dispatch.md rules R104
to R108, 45_csr.md rule R201, 60_exceptions.md rules R302 and R311 to R313).

There is no return from a trap: the set has no such instruction, and a caller that resumes writes pc itself (R315;
`State.resumeAt` in Machine/Driver.lean). -/

namespace Sys2Proof

/-- The n of an access (R51). -/
def Width.bytes : Width → Nat
  | .byte => 1
  | .half => 2
  | .word => 4

end Sys2Proof

namespace Sys2Proof.Machine

/-! ### Registers (R11, R21) -/

/-- `x[r]` in a register file; x0 reads 0. -/
def RegFile.read (f : RegFile) (r : Reg) : Word :=
  if h : r.toNat = 0 then 0 else f[r.toNat - 1]'(by have := r.isLt; omega)

/-- `x[r] <- v` in a register file; a write to x0 is discarded. -/
def RegFile.write (f : RegFile) (r : Reg) (v : Word) : RegFile :=
  if h : r.toNat = 0 then f else f.set (r.toNat - 1) v (by have := r.isLt; omega)

/-- `x[r]` of the hart a handler acts on. -/
def State.reg (s : State) (r : Reg) : Word := RegFile.read s.hart.regs r

/-- `x[r] <- v` on the hart a handler acts on. -/
def State.setReg (s : State) (r : Reg) (v : Word) : State :=
  { s with hart := { s.hart with regs := RegFile.write s.hart.regs r v } }

/-- `pc <- t`. -/
def State.setPc (s : State) (t : Word) : State := { s with hart := { s.hart with pc := t } }

/-- `Resv[h] <- r` on the hart a handler acts on. -/
def State.setResv (s : State) (r : Option Reservation) : State := { s with hart := { s.hart with resv := r } }

/-- The Outcome the call returns (R101), or none. -/
def State.setOutcome (s : State) (o : Option Conclusion) : State := { s with hart := { s.hart with outcome := o } }

/-- The CSR unit of the hart a handler acts on. -/
def State.setCsrs (s : State) (cs : CsrUnit) : State := { s with hart := { s.hart with csrs := cs } }

/-- The harts in number order, hart k at position k (R328). -/
def State.harts (s : State) : List Hart := s.below ++ s.hart :: s.above

/-- The same change on every hart. -/
def State.mapHarts (s : State) (f : Hart → Hart) : State :=
  { s with below := s.below.map f, hart := f s.hart, above := s.above.map f }

/-! ### Bytes of memory (R40, R48) -/

/-- The byte at an address. -/
def Memory.read : Memory → Nat → Byte
  | [], _ => Config.unwrittenByte
  | (b, v) :: m, a => if b = a then v else Memory.read m a

/-- Forget what is listed at an address. -/
def Memory.erase (m : Memory) (a : Nat) : Memory := m.filter (fun c => c.1 != a)

/-- List a byte at an address that is not listed, in address order. -/
def Memory.insert : Memory → Nat → Byte → Memory
  | [], a, v => [(a, v)]
  | (b, u) :: m, a, v => if b < a then (b, u) :: Memory.insert m a v else (a, v) :: (b, u) :: m

/-- Write the byte at an address, keeping the canonical form: the byte an unlisted address reads as is not listed. -/
def Memory.write (m : Memory) (a : Nat) (v : Byte) : Memory :=
  if v = Config.unwrittenByte then Memory.erase m a else Memory.insert (Memory.erase m a) a v

/-- n bytes from address a upward, the first least significant, zero-extended (R48). -/
def Memory.readLE (m : Memory) (a : Nat) : Nat → Word
  | 0 => 0
  | n + 1 => (Memory.read m a).setWidth 32 ||| (Memory.readLE m (a + 1) n <<< 8)

/-- The low n bytes of v at address a upward, the least significant first (R48). -/
def Memory.writeLE (m : Memory) (a : Nat) : Nat → Word → Memory
  | 0, _ => m
  | n + 1, v => Memory.writeLE (Memory.write m a (v.setWidth 8)) (a + 1) n (v >>> 8)

/-! ### The memory unit (R43 to R52) -/

/-- `Accessible(addr, n, type)` (R52): some row of the address map serves the whole access. -/
def accessible (cfg : Config) (addr : Word) (w : Width) (k : AccessKind) : Bool :=
  cfg.regions.any fun r =>
    decide (r.base ≤ addr.toNat) && decide (addr.toNat + w.bytes ≤ r.base + r.size)
      && r.widths.contains w && r.kinds.contains k

/-- The two kinds of fault a memory primitive reports (R47). -/
inductive MemFaultKind where
  | misaligned
  | accessFault
  deriving DecidableEq, Repr

/-- `Fault(kind, addr)` (R47); a FetchFault has the same form (R79). -/
structure MemFault where
  kind : MemFaultKind
  addr : Word
  deriving DecidableEq, Repr

/-- The checks of an access of the given types, in the fixed order: alignment, then accessibility (R47, R49, R52). -/
def accessCheck (cfg : Config) (addr : Word) (w : Width) (ks : List AccessKind) : Option MemFault :=
  if addr.toNat % w.bytes ≠ 0 then some ⟨.misaligned, addr⟩
  else if ks.all (accessible cfg addr w) then none
  else some ⟨.accessFault, addr⟩

/-- `MemRead(h, addr, n)`, the value zero-extended to 32 bits (R43). -/
def memRead (s : State) (addr : Word) (w : Width) : Except MemFault Word :=
  match accessCheck s.cfg addr w [.read] with
  | some f => .error f
  | none => .ok (Memory.readLE s.mem addr.toNat (w.bytes))

/-- Whether a reservation overlaps the n bytes at an address (R44). -/
def Reservation.overlaps (r : Reservation) (addr n : Nat) : Bool :=
  decide (addr < r.addr.toNat + r.size) && decide (r.addr.toNat < addr + n)

/-- A store of n bytes at an address clears an overlapping reservation (R44, R45). -/
def Hart.dropOverlap (addr n : Nat) (h : Hart) : Hart :=
  match h.resv with
  | some r => if r.overlaps addr n then { h with resv := none } else h
  | none => h

/-- The store itself: the bytes, and the reservations of every hart, in one event (R44, R45). -/
def storeBytes (s : State) (addr : Word) (w : Width) (v : Word) : State :=
  { s with mem := Memory.writeLE s.mem addr.toNat (w.bytes) v }.mapHarts
    (Hart.dropOverlap addr.toNat (w.bytes))

/-- `MemWrite(h, addr, n, v)`, the store path (R44). -/
def memWrite (s : State) (addr : Word) (w : Width) (v : Word) : Except MemFault State :=
  match accessCheck s.cfg addr w [.write] with
  | some f => .error f
  | none => .ok (storeBytes s addr w v)

/-- `MemAmo(h, addr, f, operand)`: the old word and the state after the indivisible update (R46). -/
def memAmo (s : State) (addr : Word) (f : Word → Word → Word) (operand : Word) : Except MemFault (Word × State) :=
  match accessCheck s.cfg addr .word [.read, .write] with
  | some e => .error e
  | none =>
    let old := Memory.readLE s.mem addr.toNat 4
    .ok (old, storeBytes s addr .word (f old operand))

/-! ### The CSR unit (R201, R211) -/

/-- The CSR of a table at an address, if one exists. -/
def csrFind (cs : List Csr) (addr : CsrAddr) : Option Csr := cs.find? (fun c => c.addr == addr)

/-- What a table answers to `csr_read(addr)`: none is `Fault`. A CSR that changes by itself reads as a free value. -/
def csrTableRead (cs : List Csr) (hart tick : Nat) (addr : CsrAddr) : Option Word :=
  match csrFind cs addr with
  | none => none
  | some c => if c.readable then some (if c.live then Config.csrLive hart addr tick else c.value) else none

/-- `csr_read(addr)`: the value, none being `Fault`. -/
def csrRead (s : State) (addr : CsrAddr) : Option Word :=
  match s.hart.csrs with
  | .table cs => csrTableRead cs s.below.length s.tick addr
  | .other u => Config.openRead u s.below.length s.tick addr

/-- The state after a `csr_read(addr)` that answered a value: a unit's read side effect happens (R202); a table has none. -/
def csrAfterRead (s : State) (addr : CsrAddr) : State :=
  match s.hart.csrs with
  | .table _ => s
  | .other u => s.setCsrs (.other ⟨u.unit, Config.openAfterRead u s.below.length s.tick addr⟩)

/-- `csr_writable(addr)`. -/
def csrWritable (s : State) (addr : CsrAddr) : Bool :=
  match s.hart.csrs with
  | .table cs => match csrFind cs addr with
    | none => false
    | some c => c.writable
  | .other u => Config.openWritable u s.below.length s.tick addr

/-- The value a CSR holds after v is written to it. -/
def Csr.stored (c : Csr) (v : Word) : Word :=
  match c.legal with
  | .whole => v
  | .masked mask => (c.value &&& ~~~mask) ||| (v &&& mask)
  | .legalised => Config.csrLegal c.addr c.value v

/-- A table after `csr_write(addr, v)`: where no CSR exists or the CSR is not writable the write is `Fault` and the table is
unchanged (R201). -/
def csrPut : List Csr → CsrAddr → Word → List Csr
  | [], _, _ => []
  | c :: cs, addr, v =>
    if c.addr = addr then (if c.writable then { c with value := c.stored v } else c) :: cs else c :: csrPut cs addr v

/-- `csr_write(addr, v)`. The block asks for it only after `csr_writable(addr)` held, so that it is never `Fault` (R209); a table
asked at another address is unchanged (R201). -/
def csrWrite (s : State) (addr : CsrAddr) (v : Word) : State :=
  match s.hart.csrs with
  | .table cs => s.setCsrs (.table (csrPut cs addr v))
  | .other u => s.setCsrs (.other ⟨u.unit, Config.openAfterWrite u s.below.length s.tick addr v⟩)

/-! ### Outcomes and traps (R101 to R108, R311 to R313) -/

/-- How a handler ends: with the state it has written, or with a trap, which has written nothing (R101, R312). On a jump
the handler has written pc itself (R106). -/
inductive Result where
  | cont (s : State)
  | jump (t : Word) (s : State)
  | trap (c : Cause) (v : Word)

/-- Taking a trap: the outcome is returned and the hart's own reservation is cleared; pc, registers, CSRs, memory and
everything else stay (R107, R311 to R313). -/
def State.takeTrap (s : State) (c : Cause) (v : Word) : State := (s.setResv none).setOutcome (some (.trapped c v))

/-- The cause of a fault during a load or LR.W (R302). -/
def loadCause : MemFaultKind → Cause
  | .misaligned => .loadAddrMisaligned
  | .accessFault => .loadAccessFault

/-- The cause of a fault during a store, SC.W or AMO (R302). -/
def storeCause : MemFaultKind → Cause
  | .misaligned => .storeAddrMisaligned
  | .accessFault => .storeAccessFault

/-- The cause of a fetch fault (R302). -/
def fetchCause : MemFaultKind → Cause
  | .misaligned => .instrAddrMisaligned
  | .accessFault => .instrAccessFault

/-- The engine's pc policy and the returned Outcome (R104 to R107); `s` is the state before the handler ran. -/
def retire (s : State) : Result → State
  | .cont s' => (s'.setPc (s'.hart.pc + 4)).setOutcome (some .continued)
  | .jump t s' => s'.setOutcome (some (.jumped t))
  | .trap c v => s.takeTrap c v

/-- A kind whose capability is not built in: the defect flag is set and no Outcome is returned (R104, R108). -/
def State.raiseDefect (s : State) : State :=
  { s with hart := { s.hart with defect := true, outcome := none } }

/-- `execute_op` around a handler (R104): a defective hart does nothing (a refusal), a kind of a capability that is not
built in sets the defect flag, and otherwise the handler runs and the engine applies the pc policy. -/
def runOp (cap : Capability) (s : State) (handler : State → Result) : Host.Outcome State Fault Refusal :=
  if s.hart.defect then .refused .defect
  else if s.cfg.has cap then .next (retire s (handler s))
  else .next s.raiseDefect

end Sys2Proof.Machine
end

