-- ==== Sys2Proof/Machine/Flags.lean ====
section
/-! DEFINITION. The comparisons. The hardware has no flags: a comparison writes 0 or 1 to a register or decides a branch
(10_state.md rule R30, 41_integer_compute.md rule R142). -/

namespace Sys2Proof.Machine

/-- s(a) < s(b). -/
def lessSigned (a b : Word) : Bool := decide (a.toInt < b.toInt)

/-- u(a) < u(b). -/
def lessUnsigned (a b : Word) : Bool := decide (a.toNat < b.toNat)

/-- The 32-bit value 1 or 0 of a comparison (R124). -/
def flagWord (b : Bool) : Word := if b then 1 else 0

end Sys2Proof.Machine
end

