-- ==== Sys2Proof/Machine/Operands.lean ====
section
/-! DEFINITION. The operand forms: effective addresses, shift amounts, widening, and the shapes handlers share
(00_scope.md rules R11 and R12, 41_integer_compute.md, 42_control_transfer.md rule R154, 43_load_store.md rules R170, R171
and R180, 45_csr.md rule R209, 48_atomics_amo.md rule R260). -/

namespace Sys2Proof.Machine

/-- `ea <- x[rs1] + imm`, the one addressing mode of loads and stores (R170). -/
def effAddr (s : State) (rs1 : Reg) (imm : Word) : Word := s.reg rs1 + imm

/-- The shift amount: the low five bits (R129, R134). -/
def shiftAmount (v : Word) : Nat := (v.extractLsb' 0 5).toNat

/-- `sext_32` of an access of this width (R11). -/
def signExt : Width → Word → Word
  | .byte, v => (v.setWidth 8).signExtend 32
  | .half, v => (v.setWidth 16).signExtend 32
  | .word, v => v

/-- `zext_32` of an access of this width (R11). -/
def zeroExt : Width → Word → Word
  | .byte, v => (v.setWidth 8).setWidth 32
  | .half, v => (v.setWidth 16).setWidth 32
  | .word, v => v

/-- `x[rd] <- f(x[rs1], imm); return Continue`. -/
def regImm (f : Word → Word → Word) (rd rs1 : Reg) (imm : Word) (s : State) : Result :=
  .cont (s.setReg rd (f (s.reg rs1) imm))

/-- `x[rd] <- f(x[rs1], x[rs2]); return Continue`. -/
def regReg (f : Word → Word → Word) (rd rs1 rs2 : Reg) (s : State) : Result :=
  .cont (s.setReg rd (f (s.reg rs1) (s.reg rs2)))

/-- The common part of JAL and JALR: check the target, link, jump (R151 to R153). -/
def jumpAndLink (rd : Reg) (t : Word) (s : State) : Result :=
  if t.extractLsb' 0 2 ≠ 0#2 then .trap .instrAddrMisaligned t
  else .jump t ((s.setReg rd (s.hart.pc + 4)).setPc t)

/-- The common branch rule; the target is only formed and checked when the branch is taken (R151, R154). -/
def branch (cond : Word → Word → Bool) (rs1 rs2 : Reg) (imm : Word) (s : State) : Result :=
  if cond (s.reg rs1) (s.reg rs2) then
    let t := s.hart.pc + imm
    if t.extractLsb' 0 2 ≠ 0#2 then .trap .instrAddrMisaligned t else .jump t (s.setPc t)
  else .cont s

/-- The common load rule (R171). -/
def load (w : Width) (ext : Word → Word) (rd rs1 : Reg) (imm : Word) (s : State) : Result :=
  match memRead s (effAddr s rs1 imm) w with
  | .error f => .trap (loadCause f.kind) f.addr
  | .ok v => .cont (s.setReg rd (ext v))

/-- The common store rule; the low bytes of `x[rs2]` are stored (R180). -/
def store (w : Width) (rs1 rs2 : Reg) (imm : Word) (s : State) : Result :=
  match memWrite s (effAddr s rs1 imm) w (s.reg rs2) with
  | .error f => .trap (storeCause f.kind) f.addr
  | .ok s' => .cont s'

/-- The common CSR rule with `do_read`, `do_write`, `src` and `new` of the instruction; all checks come first (R209). Where
the CSR is not read, `new` does not use the old value. -/
def csrAccess (doRead doWrite : Bool) (new : Word → Word → Word) (src : Word) (rd : Reg) (csr : CsrAddr) (raw : Word)
    (s : State) : Result :=
  if doWrite && !csrWritable s csr then .trap .illegalInstruction raw
  else if doRead then
    match csrRead s csr with
    | none => .trap .illegalInstruction raw
    | some old =>
      let r := csrAfterRead s csr
      .cont ((if doWrite then csrWrite r csr (new old src) else r).setReg rd old)
  else .cont (if doWrite then csrWrite s csr (new 0 src) else s)

/-- The common AMO rule: both registers are read before `x[rd]` is written (R260). -/
def amo (f : Word → Word → Word) (rd rs1 rs2 : Reg) (s : State) : Result :=
  match memAmo s (s.reg rs1) f (s.reg rs2) with
  | .error e => .trap (storeCause e.kind) e.addr
  | .ok (old, s') => .cont (s'.setReg rd old)

end Sys2Proof.Machine
end

