-- ==== Sys2Proof/Machine/Atomics.lean ====
section
/-! DEFINITION. LR.W, SC.W and the nine AMOs (47_atomics_lrsc.md rules R240 to R248, 48_atomics_amo.md rules R260 to R271).
The qualifiers aq and rl are carried and not read: under the sequentially consistent memory unit they order nothing more
(20_memory.md rule R56). -/

namespace Sys2Proof.Machine

/-- The handler of LR.W: read and install the reservation in one event (R241). -/
def loadReserved (rd rs1 : Reg) (s : State) : Result :=
  let ea := s.reg rs1
  match memRead s ea .word with
  | .error f => .trap (loadCause f.kind) f.addr
  | .ok v => .cont ((s.setResv (some ⟨ea, 4⟩)).setReg rd v)

/-- The handler of SC.W: alignment first, then the reservation, then the store path (R242). A failing SC.W makes no memory
access and leaves the reservation as it was, since SC_FAIL_CLEARS_RESERVATION is false (R244). -/
def storeConditional (rd rs1 rs2 : Reg) (s : State) : Result :=
  let ea := s.reg rs1
  if ea.toNat % 4 ≠ 0 then .trap .storeAddrMisaligned ea
  else if s.hart.resv = some ⟨ea, 4⟩ then
    match memWrite s ea .word (s.reg rs2) with
    | .error f => .trap (storeCause f.kind) f.addr
    | .ok s' => .cont ((s'.setResv none).setReg rd 0)
  else if Config.scFailClearsReservation then .cont ((s.setResv none).setReg rd 1)
  else .cont (s.setReg rd 1)

/-- LR.W (R241). -/
def execLrW (rd rs1 : Reg) (s : State) := runOp .a s (loadReserved rd rs1)

/-- SC.W (R242). -/
def execScW (rd rs1 rs2 : Reg) (s : State) := runOp .a s (storeConditional rd rs1 rs2)

/-- AMOSWAP.W (R261). -/
def execAmoswapW (rd rs1 rs2 : Reg) (s : State) := runOp .a s (amo (fun _ x => x) rd rs1 rs2)

/-- AMOADD.W (R262). -/
def execAmoaddW (rd rs1 rs2 : Reg) (s : State) := runOp .a s (amo (fun old x => old + x) rd rs1 rs2)

/-- AMOXOR.W (R263). -/
def execAmoxorW (rd rs1 rs2 : Reg) (s : State) := runOp .a s (amo (fun old x => old ^^^ x) rd rs1 rs2)

/-- AMOAND.W (R264). -/
def execAmoandW (rd rs1 rs2 : Reg) (s : State) := runOp .a s (amo (fun old x => old &&& x) rd rs1 rs2)

/-- AMOOR.W (R265). -/
def execAmoorW (rd rs1 rs2 : Reg) (s : State) := runOp .a s (amo (fun old x => old ||| x) rd rs1 rs2)

/-- AMOMIN.W: signed minimum (R266). -/
def execAmominW (rd rs1 rs2 : Reg) (s : State) :=
  runOp .a s (amo (fun old x => if lessSigned x old then x else old) rd rs1 rs2)

/-- AMOMAX.W: signed maximum (R267). -/
def execAmomaxW (rd rs1 rs2 : Reg) (s : State) :=
  runOp .a s (amo (fun old x => if lessSigned old x then x else old) rd rs1 rs2)

/-- AMOMINU.W: unsigned minimum (R268). -/
def execAmominuW (rd rs1 rs2 : Reg) (s : State) :=
  runOp .a s (amo (fun old x => if lessUnsigned x old then x else old) rd rs1 rs2)

/-- AMOMAXU.W: unsigned maximum (R269). -/
def execAmomaxuW (rd rs1 rs2 : Reg) (s : State) :=
  runOp .a s (amo (fun old x => if lessUnsigned old x then x else old) rd rs1 rs2)

end Sys2Proof.Machine
end

