-- ==== Sys2Proof/Machine/Control.lean ====
section
/-! DEFINITION. Jumps and branches (42_control_transfer.md rules R150 to R161). -/

namespace Sys2Proof.Machine

/-- JAL (R152). -/
def execJal (rd : Reg) (imm : Word) (s : State) := runOp .base s fun s => jumpAndLink rd (s.hart.pc + imm) s

/-- JALR: bit 0 of the sum is cleared (R153). -/
def execJalr (rd rs1 : Reg) (imm : Word) (s : State) :=
  runOp .base s fun s => jumpAndLink rd ((s.reg rs1 + imm) &&& 0xFFFFFFFE#32) s

/-- BEQ (R155). -/
def execBeq (rs1 rs2 : Reg) (imm : Word) (s : State) := runOp .base s (branch (fun a b => a == b) rs1 rs2 imm)

/-- BNE (R156). -/
def execBne (rs1 rs2 : Reg) (imm : Word) (s : State) := runOp .base s (branch (fun a b => a != b) rs1 rs2 imm)

/-- BLT (R157). -/
def execBlt (rs1 rs2 : Reg) (imm : Word) (s : State) := runOp .base s (branch lessSigned rs1 rs2 imm)

/-- BGE (R158). -/
def execBge (rs1 rs2 : Reg) (imm : Word) (s : State) := runOp .base s (branch (fun a b => !lessSigned a b) rs1 rs2 imm)

/-- BLTU (R159). -/
def execBltu (rs1 rs2 : Reg) (imm : Word) (s : State) := runOp .base s (branch lessUnsigned rs1 rs2 imm)

/-- BGEU (R160). -/
def execBgeu (rs1 rs2 : Reg) (imm : Word) (s : State) :=
  runOp .base s (branch (fun a b => !lessUnsigned a b) rs1 rs2 imm)

end Sys2Proof.Machine
end

