-- ==== Sys2Proof/Machine/Csr.lean ====
section
/-! DEFINITION. CSR access instructions (45_csr.md rules R200 to R209). Whether the CSR is read or written is decided by
register indexes, not by values (R202). -/

namespace Sys2Proof.Machine

/-- CSRRW: always writes, reads unless rd = x0 (R203). -/
def execCsrrw (rd rs1 : Reg) (csr : CsrAddr) (raw : Word) (s : State) :=
  runOp .zicsr s fun s => csrAccess (rd != 0) true (fun _ src => src) (s.reg rs1) rd csr raw s

/-- CSRRS: always reads, writes unless rs1 = x0 (R204). -/
def execCsrrs (rd rs1 : Reg) (csr : CsrAddr) (raw : Word) (s : State) :=
  runOp .zicsr s fun s => csrAccess true (rs1 != 0) (fun old src => old ||| src) (s.reg rs1) rd csr raw s

/-- CSRRC: always reads, writes unless rs1 = x0 (R205). -/
def execCsrrc (rd rs1 : Reg) (csr : CsrAddr) (raw : Word) (s : State) :=
  runOp .zicsr s fun s => csrAccess true (rs1 != 0) (fun old src => old &&& ~~~src) (s.reg rs1) rd csr raw s

/-- CSRRWI (R206). -/
def execCsrrwi (rd : Reg) (imm : Word) (csr : CsrAddr) (raw : Word) (s : State) :=
  runOp .zicsr s (csrAccess (rd != 0) true (fun _ src => src) imm rd csr raw)

/-- CSRRSI: the test is on the `rs1` field, which holds the immediate's five bits (R207). -/
def execCsrrsi (rd rs1 : Reg) (imm : Word) (csr : CsrAddr) (raw : Word) (s : State) :=
  runOp .zicsr s (csrAccess true (rs1 != 0) (fun old src => old ||| src) imm rd csr raw)

/-- CSRRCI (R208). -/
def execCsrrci (rd rs1 : Reg) (imm : Word) (csr : CsrAddr) (raw : Word) (s : State) :=
  runOp .zicsr s (csrAccess true (rs1 != 0) (fun old src => old &&& ~~~src) imm rd csr raw)

end Sys2Proof.Machine
end

