-- ==== Sys2Proof/Machine/Integer.lean ====
section
/-! DEFINITION. Integer computational instructions (41_integer_compute.md rules R120 to R142). -/

namespace Sys2Proof.Machine

/-- LUI (R121). -/
def execLui (rd : Reg) (imm : Word) (s : State) := runOp .base s fun s => .cont (s.setReg rd imm)

/-- AUIPC (R122). -/
def execAuipc (rd : Reg) (imm : Word) (s : State) := runOp .base s fun s => .cont (s.setReg rd (s.hart.pc + imm))

/-- ADDI (R123). -/
def execAddi (rd rs1 : Reg) (imm : Word) (s : State) := runOp .base s (regImm (fun a b => a + b) rd rs1 imm)

/-- SLTI (R124). -/
def execSlti (rd rs1 : Reg) (imm : Word) (s : State) :=
  runOp .base s (regImm (fun a b => flagWord (lessSigned a b)) rd rs1 imm)

/-- SLTIU (R125). -/
def execSltiu (rd rs1 : Reg) (imm : Word) (s : State) :=
  runOp .base s (regImm (fun a b => flagWord (lessUnsigned a b)) rd rs1 imm)

/-- XORI (R126). -/
def execXori (rd rs1 : Reg) (imm : Word) (s : State) := runOp .base s (regImm (fun a b => a ^^^ b) rd rs1 imm)

/-- ORI (R127). -/
def execOri (rd rs1 : Reg) (imm : Word) (s : State) := runOp .base s (regImm (fun a b => a ||| b) rd rs1 imm)

/-- ANDI (R128). -/
def execAndi (rd rs1 : Reg) (imm : Word) (s : State) := runOp .base s (regImm (fun a b => a &&& b) rd rs1 imm)

/-- SLLI (R129). -/
def execSlli (rd rs1 : Reg) (imm : Word) (s : State) :=
  runOp .base s (regImm (fun a b => a <<< shiftAmount b) rd rs1 imm)

/-- SRLI (R130). -/
def execSrli (rd rs1 : Reg) (imm : Word) (s : State) :=
  runOp .base s (regImm (fun a b => a >>> shiftAmount b) rd rs1 imm)

/-- SRAI (R131). -/
def execSrai (rd rs1 : Reg) (imm : Word) (s : State) :=
  runOp .base s (regImm (fun a b => a.sshiftRight (shiftAmount b)) rd rs1 imm)

/-- ADD (R132). -/
def execAdd (rd rs1 rs2 : Reg) (s : State) := runOp .base s (regReg (fun a b => a + b) rd rs1 rs2)

/-- SUB (R133). -/
def execSub (rd rs1 rs2 : Reg) (s : State) := runOp .base s (regReg (fun a b => a - b) rd rs1 rs2)

/-- SLL (R134). -/
def execSll (rd rs1 rs2 : Reg) (s : State) := runOp .base s (regReg (fun a b => a <<< shiftAmount b) rd rs1 rs2)

/-- SLT (R135). -/
def execSlt (rd rs1 rs2 : Reg) (s : State) :=
  runOp .base s (regReg (fun a b => flagWord (lessSigned a b)) rd rs1 rs2)

/-- SLTU (R136). -/
def execSltu (rd rs1 rs2 : Reg) (s : State) :=
  runOp .base s (regReg (fun a b => flagWord (lessUnsigned a b)) rd rs1 rs2)

/-- XOR (R137). -/
def execXor (rd rs1 rs2 : Reg) (s : State) := runOp .base s (regReg (fun a b => a ^^^ b) rd rs1 rs2)

/-- SRL (R138). -/
def execSrl (rd rs1 rs2 : Reg) (s : State) := runOp .base s (regReg (fun a b => a >>> shiftAmount b) rd rs1 rs2)

/-- SRA (R139). -/
def execSra (rd rs1 rs2 : Reg) (s : State) :=
  runOp .base s (regReg (fun a b => a.sshiftRight (shiftAmount b)) rd rs1 rs2)

/-- OR (R140). -/
def execOr (rd rs1 rs2 : Reg) (s : State) := runOp .base s (regReg (fun a b => a ||| b) rd rs1 rs2)

/-- AND (R141). -/
def execAnd (rd rs1 rs2 : Reg) (s : State) := runOp .base s (regReg (fun a b => a &&& b) rd rs1 rs2)

end Sys2Proof.Machine
end

