-- ==== Sys2Proof/Machine/LoadStore.lean ====
section
/-! DEFINITION. Loads and stores (43_load_store.md rules R170 to R180). -/

namespace Sys2Proof.Machine

/-- LB (R172). -/
def execLb (rd rs1 : Reg) (imm : Word) (s : State) := runOp .base s (load .byte (signExt .byte) rd rs1 imm)

/-- LH (R173). -/
def execLh (rd rs1 : Reg) (imm : Word) (s : State) := runOp .base s (load .half (signExt .half) rd rs1 imm)

/-- LW (R174). -/
def execLw (rd rs1 : Reg) (imm : Word) (s : State) := runOp .base s (load .word (signExt .word) rd rs1 imm)

/-- LBU (R175). -/
def execLbu (rd rs1 : Reg) (imm : Word) (s : State) := runOp .base s (load .byte (zeroExt .byte) rd rs1 imm)

/-- LHU (R176). -/
def execLhu (rd rs1 : Reg) (imm : Word) (s : State) := runOp .base s (load .half (zeroExt .half) rd rs1 imm)

/-- SB (R177). -/
def execSb (rs1 rs2 : Reg) (imm : Word) (s : State) := runOp .base s (store .byte rs1 rs2 imm)

/-- SH (R178). -/
def execSh (rs1 rs2 : Reg) (imm : Word) (s : State) := runOp .base s (store .half rs1 rs2 imm)

/-- SW (R179). -/
def execSw (rs1 rs2 : Reg) (imm : Word) (s : State) := runOp .base s (store .word rs1 rs2 imm)

end Sys2Proof.Machine
end

