-- ==== Sys2Proof/Machine/MulDiv.lean ====
section
/-! DEFINITION. Multiply and divide (46_muldiv.md rules R220 to R229). Results are computed as exact integers and narrowed
at the end. -/

namespace Sys2Proof.Machine

/-- Bits 63:32 of the 64-bit two's-complement form of an exact product (R222 to R224). -/
def highHalf (p : Int) : Word := (BitVec.ofInt 64 p).extractLsb' 32 32

/-- The result of DIV: rounds toward zero, with the fixed results for b = 0 and for the overflow (R225). -/
def divSigned (a b : Word) : Word :=
  if b = 0 then 0xFFFFFFFF#32
  else if a = 0x80000000#32 ∧ b = 0xFFFFFFFF#32 then 0x80000000#32
  else BitVec.ofInt 32 (Int.tdiv a.toInt b.toInt)

/-- The result of DIVU (R226). -/
def divUnsigned (a b : Word) : Word :=
  if b = 0 then 0xFFFFFFFF#32 else BitVec.ofNat 32 (a.toNat / b.toNat)

/-- The result of REM (R227). -/
def remSigned (a b : Word) : Word :=
  if b = 0 then a
  else if a = 0x80000000#32 ∧ b = 0xFFFFFFFF#32 then 0
  else BitVec.ofInt 32 (a.toInt - b.toInt * Int.tdiv a.toInt b.toInt)

/-- The result of REMU (R228). -/
def remUnsigned (a b : Word) : Word :=
  if b = 0 then a else BitVec.ofNat 32 (a.toNat % b.toNat)

/-- MUL (R221). -/
def execMul (rd rs1 rs2 : Reg) (s : State) := runOp .m s (regReg (fun a b => a * b) rd rs1 rs2)

/-- MULH (R222). -/
def execMulh (rd rs1 rs2 : Reg) (s : State) :=
  runOp .m s (regReg (fun a b => highHalf (a.toInt * b.toInt)) rd rs1 rs2)

/-- MULHSU: rs1 signed, rs2 unsigned (R223). -/
def execMulhsu (rd rs1 rs2 : Reg) (s : State) :=
  runOp .m s (regReg (fun a b => highHalf (a.toInt * (b.toNat : Int))) rd rs1 rs2)

/-- MULHU (R224). -/
def execMulhu (rd rs1 rs2 : Reg) (s : State) :=
  runOp .m s (regReg (fun a b => highHalf ((a.toNat : Int) * (b.toNat : Int))) rd rs1 rs2)

/-- DIV (R225). -/
def execDiv (rd rs1 rs2 : Reg) (s : State) := runOp .m s (regReg divSigned rd rs1 rs2)

/-- DIVU (R226). -/
def execDivu (rd rs1 rs2 : Reg) (s : State) := runOp .m s (regReg divUnsigned rd rs1 rs2)

/-- REM (R227). -/
def execRem (rd rs1 rs2 : Reg) (s : State) := runOp .m s (regReg remSigned rd rs1 rs2)

/-- REMU (R228). -/
def execRemu (rd rs1 rs2 : Reg) (s : State) := runOp .m s (regReg remUnsigned rd rs1 rs2)

end Sys2Proof.Machine
end

