-- ==== Sys2Proof/Machine/System.lean ====
section
/-! DEFINITION. FENCE, FENCE.I, ECALL, EBREAK and the kind INVALID (44_fence_system.md rules R190 to R194,
40_dispatch.md rule R109). -/

namespace Sys2Proof.Machine

/-- FENCE: nothing is left to order (R190). -/
def execFence (s : State) := runOp .base s fun s => .cont s

/-- FENCE.I: every fetch reads current memory, so nothing is left to do (R191). -/
def execFenceI (s : State) := runOp .zifencei s fun s => .cont s

/-- ECALL traps with value 0 (R192). -/
def execEcall (s : State) := runOp .base s fun _ => .trap .environmentCall 0

/-- EBREAK traps with its own address (R193). -/
def execEbreak (s : State) := runOp .base s fun s => .trap .breakpoint s.hart.pc

/-- INVALID traps with the instruction word (R109). It is always built in. -/
def execInvalid (raw : Word) (s : State) := runOp .base s fun _ => .trap .illegalInstruction raw

end Sys2Proof.Machine
end

