-- ==== Sys2Proof/Machine/Driver.lean ====
section
/-! DEFINITION. The entry points `execute` and `execute_op`, the reference driver, the layer above, and one step of the
whole system (40_dispatch.md rules R103, R104 and R112, 20_memory.md rules R55 and R60, 60_exceptions.md rules R314, R315
and R331, 70_reset_and_hazards.md rule R340). -/

namespace Sys2Proof.Machine

/-- `load_instruction(pc)`: an aligned 4-byte read and the decoder (R50, R79). -/
def loadInstruction (s : State) : Except MemFault Operation :=
  match accessCheck s.cfg s.hart.pc .word [.fetch] with
  | some f => .error f
  | none => .ok (decodeOperation s.cfg (Memory.readLE s.mem s.hart.pc.toNat 4))

/-- `execute_op(h, op)` for every kind, INVALID included (R104, R109). -/
def executeOp (op : Operation) (s : State) : Host.Outcome State Fault Refusal :=
  match op.instr with
  | some i => exec i s
  | none => execInvalid op.raw s

/-- Remember, or forget, the fetched Operation of an `execute` in progress (R55). -/
def State.setFetched (s : State) (o : Option Operation) : State := { s with hart := { s.hart with fetched := o } }

/-- `execute(h)` from where it stands to its end: the fetch, unless it is done, and the rest (R103). -/
def execute (s : State) : Host.Outcome State Fault Refusal :=
  if s.hart.defect then .refused .defect
  else
    match s.hart.fetched with
    | some op => executeOp op (s.setFetched none)
    | none =>
      match loadInstruction s with
      | .error f => .next (s.takeTrap (fetchCause f.kind) f.addr)
      | .ok op => executeOp op s

/-- The reference driver: a Trap outcome halts the hart in `Trapped(c, v)` (R112). -/
def State.haltOnTrap (s : State) : State :=
  match s.hart.outcome with
  | some (.trapped c v) => { s with hart := { s.hart with halted := some (c, v) } }
  | _ => s

/-- The driver's reaction to what a call returned. -/
def driver : Host.Outcome State Fault Refusal → Host.Outcome State Fault Refusal
  | .next s => .next s.haltOnTrap
  | .fault f => .fault f
  | .refused r => .refused r

/-- The driver of the hart in focus calls `execute`, or finishes the call in progress (R112). -/
def runHart (s : State) : Host.Outcome State Fault Refusal := driver (execute s)

/-- One event of the hart in focus (R55): the fetch of a new `execute`, whose failure ends the call, or the rest of the
call in progress. -/
def eventHart (s : State) : Host.Outcome State Fault Refusal :=
  match s.hart.fetched with
  | some _ => runHart s
  | none =>
    match loadInstruction s with
    | .error _ => runHart s
    | .ok op => .next (s.setFetched (some op))

/-- The system with hart k in focus, if there is a hart k (R328). -/
def State.focus (s : State) (k : Nat) : Option State :=
  match s.harts.drop k with
  | [] => none
  | h :: hs => some { s with below := s.harts.take k, hart := h, above := hs }

/-- A hart that a system step may choose: not defective and not halted by its driver (R55, R112). -/
def Hart.canMove (h : Hart) : Bool := !h.defect && h.halted.isNone

/-- The numbers of the harts that can move, the first hart of the list being number k. -/
def movableFrom : Nat → List Hart → List Nat
  | _, [] => []
  | k, h :: hs => if h.canMove then k :: movableFrom (k + 1) hs else movableFrom (k + 1) hs

/-- Act on hart k. -/
def onHart (k : Nat) (s : State) (act : State → Host.Outcome State Fault Refusal) : Host.Outcome State Fault Refusal :=
  match s.focus k with
  | none => .refused .noSuchHart
  | some t => act t

/-- Act on hart k unless it is in the middle of an `execute` (R111, R314, R315). -/
def betweenCalls (k : Nat) (s : State) (act : State → Host.Outcome State Fault Refusal) :
    Host.Outcome State Fault Refusal :=
  onHart k s fun t => if t.hart.fetched.isSome then .refused .overlappingCall else act t

/-- A caller routes a trap by writing pc and letting the driver call `execute` again (R315); the model asks for no trap before it
(DESIGN CHOICE, log entry 24). -/
def State.resumeAt (s : State) (pc : Word) : State := { s with hart := { s.hart with pc := pc, halted := none } }

/-- What the reset input does to hart k: x1 to x31 are free values afterwards (R340). -/
def Hart.resetInput (tick k : Nat) (h : Hart) : Hart :=
  { h with
    pc := h.resetPc
    regs := Vector.ofFn (fun j : Fin 31 => Config.freeResetReg tick k (BitVec.ofNat 5 (j.val + 1)))
    resv := none
    defect := false
    halted := none
    outcome := none
    fetched := none }

/-- The reset input, on every hart at once; it writes no memory and makes no request to a CSR unit (R340). What the two units
do at reset of their own accord is open there. DESIGN CHOICE: the CSR unit's own behaviour is the input `csrUnit` (log entry
22), and the memory unit does nothing of its own, so that every byte keeps its value (log entry 23). -/
def State.resetInput (s : State) : State :=
  { s with
    below := s.below.mapIdx (fun k h => h.resetInput s.tick k)
    hart := s.hart.resetInput s.tick s.below.length
    above := s.above.mapIdx (fun k h => h.resetInput s.tick (s.below.length + 1 + k)) }

/-- What an input of the layer above does. A hart that cannot move has no event (R55, R112).
DESIGN CHOICE (log entry 21): a direct `execute_op` call runs on a hart its driver has halted as on any other, by R104 alone,
and leaves the driver's halt as it is.
DESIGN CHOICE (log entry 24): a `resume` writes the pc of any hart between calls, whether or not its last call trapped. -/
def applyInput (i : Input) (s : State) : Host.Outcome State Fault Refusal :=
  match i with
  | .run k => onHart k s fun t => if t.hart.canMove then runHart t else .next t
  | .event k => onHart k s fun t => if t.hart.canMove then eventHart t else .next t
  | .call k op => betweenCalls k s fun t => executeOp op t
  | .contextSwitch k => betweenCalls k s fun t => .next (t.setResv none)
  | .resume k pc => betweenCalls k s fun t => .next (t.resumeAt pc)
  | .csrUnit k unit => onHart k s fun t => .next (t.setCsrs unit)
  | .reset => if s.harts.any (fun h => h.fetched.isSome) then .refused .overlappingCall else .next s.resetInput
  | .agentWrite addr w v =>
    match memWrite s addr w v with
    | .error _ => .next s
    | .ok s' => .next s'

/-- What happens when nothing is queued: some hart that can move performs its next event or events. With one such hart
there is nothing to choose; with several, free values choose the hart and whether other harts may move between its fetch
and the rest of its instruction (R55, R331). With none, the run has ended (R112). -/
def freeMove (tick : Nat) (s : State) : Host.Outcome State Fault Refusal :=
  match movableFrom 0 s.harts with
  | [] => if s.harts.any (fun h => h.defect) then .refused .defect else .fault .allHalted
  | [k] => onHart k s runHart
  | k :: k' :: ks =>
    onHart ((k :: k' :: ks).getD (Config.freeHart tick % (ks.length + 2)) k) s
      (if Config.freeSplit tick then eventHart else runHart)

/-- The state a step starts from: the tick counted, the first input taken off the queue. -/
def State.begin (s : State) : State := { s with tick := s.tick + 1, inputs := s.inputs.tail }

/-- One step of the system. -/
def systemStep (s : State) : Host.Outcome State Fault Refusal :=
  match s.inputs with
  | i :: _ => applyInput i s.begin
  | [] => freeMove s.tick s.begin

/-- The state in which the next step runs the word `w` on the hart in focus: the word lies at its pc, the hart can move, no
fetch is in progress, and its driver moves next (log entry 16). -/
def State.placeWord (s : State) (w : Word) : State :=
  { s with
    mem := Memory.writeLE s.mem s.hart.pc.toNat 4 w
    hart := { s.hart with defect := false, halted := none, fetched := none }
    inputs := .run s.below.length :: s.inputs }

end Sys2Proof.Machine
end

