-- ==== Sys2Proof/Safety.lean ====
section
/-! DEFINITION. The words claims are stated in: when an instruction executes normally, what an instruction leaves alone,
and the machine's invariant. -/

namespace Sys2Proof.Machine

/-- An instruction of this capability executes normally on the hart in focus: the hart is not defective and the capability
is built in (R104, R108). -/
structure State.Ready (s : State) (cap : Capability) : Prop where
  sound : s.hart.defect = false
  built : s.cfg.has cap = true

/-- An access of n bytes of the given types is aligned and every type of it is accessible (R43, R44, R46). -/
structure AccessOk (s : State) (addr : Word) (w : Width) (ks : List AccessKind) : Prop where
  aligned : addr.toNat % w.bytes = 0
  served : ∀ k ∈ ks, accessible s.cfg addr w k = true

/-- Two states of one hart that differ in the reservation slot at most. -/
def Hart.SameButSlot (h h' : Hart) : Prop := h' = { h with resv := h'.resv }

/-- Bytes `a .. a+n-1` meet the bytes a reservation covers (R44). -/
def Reservation.Meets (r : Reservation) (addr n : Nat) : Prop :=
  addr < r.addr.toNat + r.size ∧ r.addr.toNat < addr + n

/-- What a store of n bytes at an address leaves of a reservation slot (R44, R45): an overlapping reservation is cleared, any
other slot is as before. -/
def SlotAfterStore (addr n : Nat) (before after : Option Reservation) : Prop :=
  (∀ r, before = some r → r.Meets addr n → after = none) ∧
  (∀ r, before = some r → ¬ r.Meets addr n → after = some r) ∧
  (before = none → after = none)

/-- What a store of n bytes at an address leaves of a hart that is not the one executing. -/
def Hart.SeesStore (addr n : Nat) (h h' : Hart) : Prop := h.SameButSlot h' ∧ SlotAfterStore addr n h.resv h'.resv

/-- The parameters, the queue and the counter, which no instruction writes. -/
structure SameSystem (s t : State) : Prop where
  cfg : t.cfg = s.cfg
  inputs : t.inputs = s.inputs
  tick : t.tick = s.tick

/-- What of the executing hart no instruction writes: the defect flag aside from R108, the driver's halt, the parameter
RESET_PC and the fetch in progress. -/
structure SameHartControl (s t : State) : Prop where
  defect : t.hart.defect = s.hart.defect
  halted : t.hart.halted = s.hart.halted
  resetPc : t.hart.resetPc = s.hart.resetPc
  fetched : t.hart.fetched = s.hart.fetched

/-- Every register reads as before, but for the destination (R23). -/
def RegsKept (s t : State) (dest : Option Reg) : Prop := ∀ r, dest ≠ some r → t.reg r = s.reg r

/-- Every byte of memory reads as before. -/
def MemKept (s t : State) : Prop := ∀ a, Memory.read t.mem a = Memory.read s.mem a

/-- Every byte of memory outside the n bytes stored at an address reads as before. -/
def MemKeptOutside (s t : State) (addr n : Nat) : Prop :=
  ∀ a, a < addr ∨ addr + n ≤ a → Memory.read t.mem a = Memory.read s.mem a

/-- The frame of an instruction that stores nothing and touches no CSR and no reservation: everything but pc, the returned
Outcome and the destination register is as before. -/
structure RegisterFrame (s t : State) (dest : Option Reg) : Prop where
  regs : RegsKept s t dest
  mem : MemKept s t
  csrs : t.hart.csrs = s.hart.csrs
  resv : t.hart.resv = s.hart.resv
  control : SameHartControl s t
  below : t.below = s.below
  above : t.above = s.above
  system : SameSystem s t

/-- The frame of an instruction that stores n bytes at an address: the bytes outside are as before, every other hart only
loses an overlapping reservation, and of the executing hart only pc, the Outcome, the destination register and the
reservation slot change. -/
structure StoreFrame (s t : State) (dest : Option Reg) (addr n : Nat) : Prop where
  regs : RegsKept s t dest
  mem : MemKeptOutside s t addr n
  csrs : t.hart.csrs = s.hart.csrs
  control : SameHartControl s t
  below : List.Forall₂ (Hart.SeesStore addr n) s.below t.below
  above : List.Forall₂ (Hart.SeesStore addr n) s.above t.above
  system : SameSystem s t

/-- The instruction ends with Continue: pc has been advanced by exactly 4 (R105). -/
structure Continues (s t : State) : Prop where
  pc : t.hart.pc = s.hart.pc + 4
  outcome : t.hart.outcome = some .continued

/-- The instruction ends with Jump: pc is the target exactly (R106). -/
structure Jumps (t : State) (target : Word) : Prop where
  pc : t.hart.pc = target
  outcome : t.hart.outcome = some (.jumped target)

/-- The instruction ends with a trap: pc, every register, every byte, every CSR and every other hart are as before, and the
hart's own reservation is cleared (R107, R312, R313). -/
structure Traps (s t : State) (c : Cause) (v : Word) : Prop where
  pc : t.hart.pc = s.hart.pc
  outcome : t.hart.outcome = some (.trapped c v)
  regs : RegsKept s t none
  mem : MemKept s t
  csrs : t.hart.csrs = s.hart.csrs
  resv : t.hart.resv = none
  control : SameHartControl s t
  below : t.below = s.below
  above : t.above = s.above
  system : SameSystem s t

/-- The value a destination register reads after `x[rd] <- v`: v, or 0 for x0 (R21). -/
def destValue (rd : Reg) (v : Word) : Word := if rd = 0 then 0 else v

/-- `exec` completes an instruction of the register-only shape: `x[rd] <- v; return Continue`, and nothing else changes. -/
def WritesRegister (i : Instr) (s : State) (rd : Reg) (v : Word) : Prop :=
  ∃ t, exec i s = .next t ∧ t.reg rd = destValue rd v ∧ Continues s t ∧ RegisterFrame s t (some rd)

/-- `exec` answers a next state in which the instruction has trapped. -/
def TakesTrap (i : Instr) (s : State) (c : Cause) (v : Word) : Prop :=
  ∃ t, exec i s = .next t ∧ Traps s t c v

/-- The destination register an Operation names; INVALID names none (R23). -/
def destOf (op : Operation) : Option Reg := op.instr.bind Instr.dest

/-- An Operation that sets no defect: INVALID, or of a kind whose capability is built in (R74, R108). -/
def BuiltIn (cfg : Config) (op : Operation) : Prop := ∀ i, op.instr = some i → cfg.has i.capability = true

/-- One row of the encoding tables: a word w is the row's instruction when `w and mask = value` (R83 to R90). -/
structure OpcodeRow where
  mask  : Word
  value : Word
  cap   : Capability
  deriving DecidableEq, Repr

/-- The rows of rule R83 (30_encoding.md). -/
def rowsJump : List OpcodeRow :=
  [⟨0x0000007F, 0x00000037, .base⟩,
   ⟨0x0000007F, 0x00000017, .base⟩,
   ⟨0x0000007F, 0x0000006F, .base⟩,
   ⟨0x0000707F, 0x00000067, .base⟩,
   ⟨0x0000707F, 0x00000063, .base⟩,
   ⟨0x0000707F, 0x00001063, .base⟩,
   ⟨0x0000707F, 0x00004063, .base⟩,
   ⟨0x0000707F, 0x00005063, .base⟩,
   ⟨0x0000707F, 0x00006063, .base⟩,
   ⟨0x0000707F, 0x00007063, .base⟩]

/-- The rows of rule R84 (30_encoding.md). -/
def rowsMemory : List OpcodeRow :=
  [⟨0x0000707F, 0x00000003, .base⟩,
   ⟨0x0000707F, 0x00001003, .base⟩,
   ⟨0x0000707F, 0x00002003, .base⟩,
   ⟨0x0000707F, 0x00004003, .base⟩,
   ⟨0x0000707F, 0x00005003, .base⟩,
   ⟨0x0000707F, 0x00000023, .base⟩,
   ⟨0x0000707F, 0x00001023, .base⟩,
   ⟨0x0000707F, 0x00002023, .base⟩]

/-- The rows of rule R85 (30_encoding.md). -/
def rowsOpImm : List OpcodeRow :=
  [⟨0x0000707F, 0x00000013, .base⟩,
   ⟨0x0000707F, 0x00002013, .base⟩,
   ⟨0x0000707F, 0x00003013, .base⟩,
   ⟨0x0000707F, 0x00004013, .base⟩,
   ⟨0x0000707F, 0x00006013, .base⟩,
   ⟨0x0000707F, 0x00007013, .base⟩,
   ⟨0xFE00707F, 0x00001013, .base⟩,
   ⟨0xFE00707F, 0x00005013, .base⟩,
   ⟨0xFE00707F, 0x40005013, .base⟩]

/-- The rows of rule R86 (30_encoding.md). -/
def rowsOp : List OpcodeRow :=
  [⟨0xFE00707F, 0x00000033, .base⟩,
   ⟨0xFE00707F, 0x40000033, .base⟩,
   ⟨0xFE00707F, 0x00001033, .base⟩,
   ⟨0xFE00707F, 0x00002033, .base⟩,
   ⟨0xFE00707F, 0x00003033, .base⟩,
   ⟨0xFE00707F, 0x00004033, .base⟩,
   ⟨0xFE00707F, 0x00005033, .base⟩,
   ⟨0xFE00707F, 0x40005033, .base⟩,
   ⟨0xFE00707F, 0x00006033, .base⟩,
   ⟨0xFE00707F, 0x00007033, .base⟩]

/-- The rows of rules R87 and R88 (30_encoding.md). -/
def rowsSystem : List OpcodeRow :=
  [⟨0x0000707F, 0x0000000F, .base⟩,
   ⟨0xFFFFFFFF, 0x00000073, .base⟩,
   ⟨0xFFFFFFFF, 0x00100073, .base⟩,
   ⟨0x0000707F, 0x0000100F, .zifencei⟩,
   ⟨0x0000707F, 0x00001073, .zicsr⟩,
   ⟨0x0000707F, 0x00002073, .zicsr⟩,
   ⟨0x0000707F, 0x00003073, .zicsr⟩,
   ⟨0x0000707F, 0x00005073, .zicsr⟩,
   ⟨0x0000707F, 0x00006073, .zicsr⟩,
   ⟨0x0000707F, 0x00007073, .zicsr⟩]

/-- The rows of rule R89 (30_encoding.md). -/
def rowsMulDiv : List OpcodeRow :=
  [⟨0xFE00707F, 0x02000033, .m⟩,
   ⟨0xFE00707F, 0x02001033, .m⟩,
   ⟨0xFE00707F, 0x02002033, .m⟩,
   ⟨0xFE00707F, 0x02003033, .m⟩,
   ⟨0xFE00707F, 0x02004033, .m⟩,
   ⟨0xFE00707F, 0x02005033, .m⟩,
   ⟨0xFE00707F, 0x02006033, .m⟩,
   ⟨0xFE00707F, 0x02007033, .m⟩]

/-- The rows of rule R90 (30_encoding.md). -/
def rowsAtomic : List OpcodeRow :=
  [⟨0xF9F0707F, 0x1000202F, .a⟩,
   ⟨0xF800707F, 0x1800202F, .a⟩,
   ⟨0xF800707F, 0x0800202F, .a⟩,
   ⟨0xF800707F, 0x0000202F, .a⟩,
   ⟨0xF800707F, 0x2000202F, .a⟩,
   ⟨0xF800707F, 0x6000202F, .a⟩,
   ⟨0xF800707F, 0x4000202F, .a⟩,
   ⟨0xF800707F, 0x8000202F, .a⟩,
   ⟨0xF800707F, 0xA000202F, .a⟩,
   ⟨0xF800707F, 0xC000202F, .a⟩,
   ⟨0xF800707F, 0xE000202F, .a⟩]

/-- All 66 rows. -/
def opcodeRows : List OpcodeRow :=
  rowsJump ++ rowsMemory ++ rowsOpImm ++ rowsOp ++ rowsSystem ++ rowsMulDiv ++ rowsAtomic

/-- The row stands for a word on this configuration: its capability is built in and the word matches (R91). -/
def OpcodeRow.Selects (r : OpcodeRow) (cfg : Config) (w : Word) : Prop :=
  cfg.has r.cap = true ∧ w &&& r.mask = r.value

/-- The kinds whose handler can store to memory (R44, R46). -/
def storesMemory : Instr → Bool
  | .sb .. | .sh .. | .sw .. | .scW .. => true
  | .amoswapW .. | .amoaddW .. | .amoxorW .. | .amoandW .. | .amoorW .. => true
  | .amominW .. | .amomaxW .. | .amominuW .. | .amomaxuW .. => true
  | .lui .. | .auipc .. | .jal .. | .jalr .. => false
  | .beq .. | .bne .. | .blt .. | .bge .. | .bltu .. | .bgeu .. => false
  | .lb .. | .lh .. | .lw .. | .lbu .. | .lhu .. => false
  | .addi .. | .slti .. | .sltiu .. | .xori .. | .ori .. | .andi .. | .slli .. | .srli .. | .srai .. => false
  | .add .. | .sub .. | .sll .. | .slt .. | .sltu .. | .xor .. | .srl .. | .sra .. | .or .. | .and .. => false
  | .fence | .ecall | .ebreak | .fenceI => false
  | .csrrw .. | .csrrs .. | .csrrc .. | .csrrwi .. | .csrrsi .. | .csrrci .. => false
  | .mul .. | .mulh .. | .mulhsu .. | .mulhu .. | .div .. | .divu .. | .rem .. | .remu .. => false
  | .lrW .. => false

/-- LR.W, the one kind that installs a reservation (R26). -/
def isLoadReserved : Instr → Bool
  | .lrW .. => true
  | _ => false

/-- LUI, AUIPC and the kinds of the OP-IMM and OP opcodes (R92). -/
def isHintKind : Instr → Bool
  | .lui .. | .auipc .. => true
  | .addi .. | .slti .. | .sltiu .. | .xori .. | .ori .. | .andi .. | .slli .. | .srli .. | .srai .. => true
  | .add .. | .sub .. | .sll .. | .slt .. | .sltu .. | .xor .. | .srl .. | .sra .. | .or .. | .and .. => true
  | .mul .. | .mulh .. | .mulhsu .. | .mulhu .. | .div .. | .divu .. | .rem .. | .remu .. => true
  | _ => false

/-- What holds of one hart in every state a run reaches: pc and RESET_PC are multiples of 4 (R25, R33), and a reservation
exists only with the atomics built in, is 4 bytes long and lies at a multiple of 4 (R26), and a remembered Operation is one
the decoder can answer (R74, R108). -/
structure Hart.Inv (cfg : Config) (h : Hart) : Prop where
  pc : h.pc.toNat % 4 = 0
  resetPc : h.resetPc.toNat % 4 = 0
  resv : ∀ r, h.resv = some r → cfg.hasA = true ∧ r.size = 4 ∧ r.addr.toNat % 4 = 0
  fetched : ∀ op, h.fetched = some op → BuiltIn cfg op

/-- The layer above resumes a hart only at a multiple of 4. -/
def Input.Aligned : Input → Prop
  | .resume _ pc => pc.toNat % 4 = 0
  | .run _ | .event _ | .call .. | .contextSwitch _ | .csrUnit .. | .reset | .agentWrite .. => True

/-- The invariant of the machine: memory is canonical, every hart is as `Hart.Inv` says, and every queued resumption is
aligned. -/
structure State.Inv (s : State) : Prop where
  mem : Memory.wf s.mem
  harts : ∀ h ∈ s.harts, h.Inv s.cfg
  inputs : ∀ i ∈ s.inputs, i.Aligned

end Sys2Proof.Machine
end

