-- ==== Sys2Proof/Certificates/Slice0/Obligations.lean ====
section
/-! DEFINITION. The statements for the provers. Each docstring names the rules of spec/ it formalises. -/

open Sys2Proof
open Sys2Proof.Machine

/-! ### Encoding -/

/-- Decoding the word of a well-formed instruction gives the instruction back, with every operand at every value the encoding
admits, on every configuration that has its capability (R70, R71, R77, R80 to R90). -/
def Obligations.DecodeOfEncodeIsIdentity : Prop :=
  ∀ (cfg : Config) (i : Instr), i.wellFormed = true → i.rawMatches = true → cfg.has i.capability = true →
    decodeWord cfg (encode i) = .ok i

/-- What the decoder answers is well formed, carries its own word, and belongs to a capability that is built in
(R70, R71, R74, R77). -/
def Obligations.DecodedInstructionsAreWellFormed : Prop :=
  ∀ (cfg : Config) (w : Word) (i : Instr), decodeWord cfg w = .ok i →
    i.wellFormed = true ∧ i.rawMatches = true ∧ cfg.has i.capability = true

/-- Outside FENCE and FENCE.I no bit of a word is dropped: encoding what was decoded gives the word back (R80 to R90). FENCE and
FENCE.I are decoded from exactly the words with their opcode and funct3, whatever the other bits, FENCE.I where it is built in
(R87). -/
def Obligations.EncodeOfDecodedIsTheWord : Prop :=
  ∀ (cfg : Config) (w : Word),
    (∀ i, decodeWord cfg w = .ok i → i ≠ .fence → i ≠ .fenceI → encode i = w) ∧
    (decodeWord cfg w = .ok .fence ↔ w &&& 0x0000707F#32 = 0x0000000F#32) ∧
    (decodeWord cfg w = .ok .fenceI ↔ cfg.hasZifencei = true ∧ w &&& 0x0000707F#32 = 0x0000100F#32)

/-- The record the decoder makes of a word (R70, R80): every field but imm is filled from the word whether or not the kind reads
it, and with the fields its kind reads (R72) it is the instruction the word decodes to. The field imm is the instruction's
immediate (R77, R81); that it is 0 for a kind that reads none is the model's choice (log entry 14). -/
def Obligations.DecodedRecordCarriesItsWord : Prop :=
  ∀ (cfg : Config) (w : Word),
    (decodeOperation cfg w).rd = w.extractLsb' 7 5 ∧ (decodeOperation cfg w).rs1 = w.extractLsb' 15 5 ∧
    (decodeOperation cfg w).rs2 = w.extractLsb' 20 5 ∧ (decodeOperation cfg w).csr = w.extractLsb' 20 12 ∧
    (decodeOperation cfg w).aq = w.getLsbD 26 ∧ (decodeOperation cfg w).rl = w.getLsbD 25 ∧
    (decodeOperation cfg w).funct = w.extractLsb' 25 7 ++ w.extractLsb' 12 3 ∧ (decodeOperation cfg w).raw = w ∧
    (∀ i, decodeWord cfg w = .ok i ↔ (decodeOperation cfg w).instr = some i) ∧
    (∀ i, decodeWord cfg w = .ok i → (decodeOperation cfg w).kind = i.kind ∧ (decodeOperation cfg w).imm = i.imm) ∧
    (decodeOperation cfg w).wellFormed = true

/-- A word decodes to INVALID, with `raw` the word, exactly when no row of the tables selects it, the rows of capabilities
that are not built in removed (R74, R91). -/
def Obligations.InvalidExactlyWhenNoRowSelects : Prop :=
  ∀ (cfg : Config) (w : Word), (decodeOperation cfg w).raw = w ∧
    ((decodeOperation cfg w).kind = .invalid ↔ ∀ r ∈ opcodeRows, ¬ r.Selects cfg w)

/-- No two rows of the tables select the same word (R83 to R90). -/
def Obligations.RowsDoNotOverlap : Prop :=
  opcodeRows.Pairwise fun r q => ∀ w : Word, ¬ (w &&& r.mask = r.value ∧ w &&& q.mask = q.value)

/-- Some words written out from the spec's examples, with the instructions they stand for (R121 to R271). -/
def Obligations.SampleWordsDecode : Prop :=
  decodeTableWord 32 0x123452B7 = some (.lui 5 0x12345000) ∧
  decodeTableWord 32 0xFE000CE3 = some (.beq 0 0 0xFFFFFFF8) ∧
  decodeTableWord 32 0xFFDFF06F = some (.jal 0 0xFFFFFFFC) ∧
  decodeTableWord 32 0xFE732C23 = some (.sw 6 7 0xFFFFFFF8) ∧
  decodeTableWord 32 0x40435293 = some (.srai 5 6 4) ∧
  decodeTableWord 32 0x340872F3 = some (.csrrci 5 16 16 0x340 0x340872F3) ∧
  decodeTableWord 32 0x027342B3 = some (.div 5 6 7) ∧
  decodeTableWord 32 0x1600A2AF = some (.lrW 5 1 true true) ∧
  decodeTableWord 32 0x0820A2AF = some (.amoswapW 5 1 2 false false) ∧
  decodeTableWord 32 0x00000000 = none

/-! ### Integer computation -/

/-- LUI and AUIPC (R121, R122). -/
def Obligations.UpperImmediateResults : Prop :=
  ∀ (s : State) (rd : Reg) (imm : Word), s.Ready .base →
    WritesRegister (.lui rd imm) s rd imm ∧ WritesRegister (.auipc rd imm) s rd (s.hart.pc + imm)

/-- ADDI, XORI, ORI, ANDI (R123, R126, R127, R128). -/
def Obligations.ImmediateArithmeticResults : Prop :=
  ∀ (s : State) (rd rs1 : Reg) (imm : Word), s.Ready .base →
    WritesRegister (.addi rd rs1 imm) s rd (s.reg rs1 + imm) ∧
    WritesRegister (.xori rd rs1 imm) s rd (s.reg rs1 ^^^ imm) ∧
    WritesRegister (.ori rd rs1 imm) s rd (s.reg rs1 ||| imm) ∧
    WritesRegister (.andi rd rs1 imm) s rd (s.reg rs1 &&& imm)

/-- ADD, SUB, XOR, OR, AND (R132, R133, R137, R140, R141). -/
def Obligations.RegisterArithmeticResults : Prop :=
  ∀ (s : State) (rd rs1 rs2 : Reg), s.Ready .base →
    WritesRegister (.add rd rs1 rs2) s rd (s.reg rs1 + s.reg rs2) ∧
    WritesRegister (.sub rd rs1 rs2) s rd (s.reg rs1 - s.reg rs2) ∧
    WritesRegister (.xor rd rs1 rs2) s rd (s.reg rs1 ^^^ s.reg rs2) ∧
    WritesRegister (.or rd rs1 rs2) s rd (s.reg rs1 ||| s.reg rs2) ∧
    WritesRegister (.and rd rs1 rs2) s rd (s.reg rs1 &&& s.reg rs2)

/-- SLTI, SLTIU, SLT, SLTU write the 32-bit value 1 or 0 (R124, R125, R135, R136). -/
def Obligations.SetLessThanResults : Prop :=
  ∀ (s : State) (rd rs1 rs2 : Reg) (imm : Word), s.Ready .base →
    WritesRegister (.slti rd rs1 imm) s rd (if (s.reg rs1).toInt < imm.toInt then 1 else 0) ∧
    WritesRegister (.sltiu rd rs1 imm) s rd (if (s.reg rs1).toNat < imm.toNat then 1 else 0) ∧
    WritesRegister (.slt rd rs1 rs2) s rd (if (s.reg rs1).toInt < (s.reg rs2).toInt then 1 else 0) ∧
    WritesRegister (.sltu rd rs1 rs2) s rd (if (s.reg rs1).toNat < (s.reg rs2).toNat then 1 else 0)

/-- The shifts by a value v, whose low five bits are the amount, as arithmetic: times 2^sh modulo 2^32, the unsigned quotient
by 2^sh, and the floor of the signed quotient by 2^sh (R129, R130, R131, R134, R138, R139). -/
def Obligations.ShiftResults : Prop :=
  ∀ (s : State) (rd rs1 rs2 : Reg) (imm : Word), s.Ready .base →
    WritesRegister (.slli rd rs1 imm) s rd (BitVec.ofNat 32 ((s.reg rs1).toNat * 2 ^ (imm.toNat % 32))) ∧
    WritesRegister (.srli rd rs1 imm) s rd (BitVec.ofNat 32 ((s.reg rs1).toNat / 2 ^ (imm.toNat % 32))) ∧
    WritesRegister (.srai rd rs1 imm) s rd (BitVec.ofInt 32 ((s.reg rs1).toInt / 2 ^ (imm.toNat % 32))) ∧
    WritesRegister (.sll rd rs1 rs2) s rd (BitVec.ofNat 32 ((s.reg rs1).toNat * 2 ^ ((s.reg rs2).toNat % 32))) ∧
    WritesRegister (.srl rd rs1 rs2) s rd (BitVec.ofNat 32 ((s.reg rs1).toNat / 2 ^ ((s.reg rs2).toNat % 32))) ∧
    WritesRegister (.sra rd rs1 rs2) s rd (BitVec.ofInt 32 ((s.reg rs1).toInt / 2 ^ ((s.reg rs2).toNat % 32)))

/-- A kind of the LUI, AUIPC, OP-IMM and OP opcodes with `rd = x0` does nothing but advance pc (R92). -/
def Obligations.HintsOnlyAdvancePc : Prop :=
  ∀ (i : Instr) (s : State), isHintKind i = true → i.dest = some 0 → s.Ready i.capability →
    ∃ t, exec i s = .next t ∧ Continues s t ∧ RegisterFrame s t none

/-! ### Control transfer -/

/-- What JAL and JALR do with a target: to a multiple of 4 they link and jump, to any other address they trap with the target
and write nothing (R151). -/
def JumpRule (i : Instr) (s : State) (rd : Reg) (target : Word) : Prop :=
  (target.toNat % 4 = 0 →
    ∃ t, exec i s = .next t ∧ Jumps t target ∧ t.reg rd = destValue rd (s.hart.pc + 4) ∧ RegisterFrame s t (some rd)) ∧
  (target.toNat % 4 ≠ 0 → TakesTrap i s .instrAddrMisaligned target)

/-- JAL (R152). -/
def Obligations.JalLinksAndJumps : Prop :=
  ∀ (s : State) (rd : Reg) (imm : Word), s.Ready .base → JumpRule (.jal rd imm) s rd (s.hart.pc + imm)

/-- JALR: the target is the sum with bit 0 cleared, that is, the greatest even number not above it (R153). -/
def Obligations.JalrLinksAndJumps : Prop :=
  ∀ (s : State) (rd rs1 : Reg) (imm : Word), s.Ready .base →
    JumpRule (.jalr rd rs1 imm) s rd (BitVec.ofNat 32 ((s.reg rs1 + imm).toNat / 2 * 2))

/-- The common branch rule (R154): not taken it continues; taken it jumps to a multiple of 4 and traps on any other target;
no register is written either way. -/
def BranchRule (i : Instr) (s : State) (imm : Word) (taken : Prop) : Prop :=
  (¬ taken → ∃ t, exec i s = .next t ∧ Continues s t ∧ RegisterFrame s t none) ∧
  (taken → (s.hart.pc + imm).toNat % 4 = 0 →
    ∃ t, exec i s = .next t ∧ Jumps t (s.hart.pc + imm) ∧ RegisterFrame s t none) ∧
  (taken → (s.hart.pc + imm).toNat % 4 ≠ 0 → TakesTrap i s .instrAddrMisaligned (s.hart.pc + imm))

/-- The six branches with their conditions (R154 to R160). -/
def Obligations.BranchesFollowTheirConditions : Prop :=
  ∀ (s : State) (rs1 rs2 : Reg) (imm : Word), s.Ready .base →
    BranchRule (.beq rs1 rs2 imm) s imm (s.reg rs1 = s.reg rs2) ∧
    BranchRule (.bne rs1 rs2 imm) s imm (s.reg rs1 ≠ s.reg rs2) ∧
    BranchRule (.blt rs1 rs2 imm) s imm ((s.reg rs1).toInt < (s.reg rs2).toInt) ∧
    BranchRule (.bge rs1 rs2 imm) s imm ((s.reg rs1).toInt ≥ (s.reg rs2).toInt) ∧
    BranchRule (.bltu rs1 rs2 imm) s imm ((s.reg rs1).toNat < (s.reg rs2).toNat) ∧
    BranchRule (.bgeu rs1 rs2 imm) s imm ((s.reg rs1).toNat ≥ (s.reg rs2).toNat)

/-! ### Memory -/

/-- The unsigned number whose n bytes lie at an address, the lowest address least significant (R48). -/
def bytesAt (s : State) (a : Nat) : Nat → Nat
  | 0 => 0
  | n + 1 => (Memory.read s.mem a).toNat + 256 * bytesAt s (a + 1) n

/-- The common load rule (R171), with the value of the accessed bytes, for an aligned address. -/
def LoadRule (i : Instr) (s : State) (rd : Reg) (ea : Word) (w : Width) (value : Nat → Word) : Prop :=
  (AccessOk s ea w [.read] → WritesRegister i s rd (value (bytesAt s ea.toNat w.bytes))) ∧
  (ea.toNat % w.bytes = 0 → accessible s.cfg ea w .read = false → TakesTrap i s .loadAccessFault ea)

/-- LB, LH, LW, LBU, LHU (R171 to R176). A byte access is never misaligned. -/
def Obligations.LoadsReadTheirBytes : Prop :=
  ∀ (s : State) (rd rs1 : Reg) (imm : Word), s.Ready .base →
    LoadRule (.lb rd rs1 imm) s rd (s.reg rs1 + imm) .byte (fun v => (BitVec.ofNat 8 v).signExtend 32) ∧
    LoadRule (.lh rd rs1 imm) s rd (s.reg rs1 + imm) .half (fun v => (BitVec.ofNat 16 v).signExtend 32) ∧
    LoadRule (.lw rd rs1 imm) s rd (s.reg rs1 + imm) .word (fun v => BitVec.ofNat 32 v) ∧
    LoadRule (.lbu rd rs1 imm) s rd (s.reg rs1 + imm) .byte (fun v => BitVec.ofNat 32 v) ∧
    LoadRule (.lhu rd rs1 imm) s rd (s.reg rs1 + imm) .half (fun v => BitVec.ofNat 32 v) ∧
    ((s.reg rs1 + imm).toNat % 2 ≠ 0 →
      TakesTrap (.lh rd rs1 imm) s .loadAddrMisaligned (s.reg rs1 + imm) ∧
      TakesTrap (.lhu rd rs1 imm) s .loadAddrMisaligned (s.reg rs1 + imm)) ∧
    ((s.reg rs1 + imm).toNat % 4 ≠ 0 → TakesTrap (.lw rd rs1 imm) s .loadAddrMisaligned (s.reg rs1 + imm))

/-- The common store rule (R180), for an aligned address: byte k of the n stored bytes is bits 8k+7 to 8k of `x[rs2]`, every
other byte is as before, and every overlapping reservation of every hart is cleared, the hart's own too (R45). -/
def StoreRule (i : Instr) (s : State) (ea : Word) (w : Width) (v : Word) : Prop :=
  (AccessOk s ea w [.write] →
    ∃ t, exec i s = .next t ∧ Continues s t ∧ StoreFrame s t none ea.toNat w.bytes ∧
      (∀ k, k < w.bytes → Memory.read t.mem (ea.toNat + k) = v.extractLsb' (8 * k) 8) ∧
      SlotAfterStore ea.toNat w.bytes s.hart.resv t.hart.resv) ∧
  (ea.toNat % w.bytes = 0 → accessible s.cfg ea w .write = false → TakesTrap i s .storeAccessFault ea)

/-- SB, SH, SW (R177 to R180). A byte access is never misaligned. -/
def Obligations.StoresWriteTheirBytes : Prop :=
  ∀ (s : State) (rs1 rs2 : Reg) (imm : Word), s.Ready .base →
    StoreRule (.sb rs1 rs2 imm) s (s.reg rs1 + imm) .byte (s.reg rs2) ∧
    StoreRule (.sh rs1 rs2 imm) s (s.reg rs1 + imm) .half (s.reg rs2) ∧
    StoreRule (.sw rs1 rs2 imm) s (s.reg rs1 + imm) .word (s.reg rs2) ∧
    ((s.reg rs1 + imm).toNat % 2 ≠ 0 → TakesTrap (.sh rs1 rs2 imm) s .storeAddrMisaligned (s.reg rs1 + imm)) ∧
    ((s.reg rs1 + imm).toNat % 4 ≠ 0 → TakesTrap (.sw rs1 rs2 imm) s .storeAddrMisaligned (s.reg rs1 + imm))

/-- `MemRead`, `MemWrite` and `MemAmo` on accesses that are aligned and accessible, and their faults otherwise, misaligned
first (R43, R44, R46, R47). -/
def Obligations.MemoryPrimitivesFollowTheirContract : Prop :=
  ∀ (s : State) (addr : Word) (w : Width) (v : Word) (f : Word → Word → Word),
    (AccessOk s addr w [.read] → memRead s addr w = .ok (BitVec.ofNat 32 (bytesAt s addr.toNat w.bytes))) ∧
    (AccessOk s addr w [.write] → ∃ t, memWrite s addr w v = .ok t ∧ MemKeptOutside s t addr.toNat w.bytes ∧
      (∀ k, k < w.bytes → Memory.read t.mem (addr.toNat + k) = v.extractLsb' (8 * k) 8) ∧
      List.Forall₂ (Hart.SeesStore addr.toNat w.bytes) s.harts t.harts ∧ SameSystem s t) ∧
    (AccessOk s addr .word [.read, .write] → ∃ t,
      memAmo s addr f v = .ok (BitVec.ofNat 32 (bytesAt s addr.toNat 4), t) ∧
      memWrite s addr .word (f (BitVec.ofNat 32 (bytesAt s addr.toNat 4)) v) = .ok t) ∧
    (addr.toNat % w.bytes ≠ 0 →
      memRead s addr w = .error ⟨.misaligned, addr⟩ ∧ memWrite s addr w v = .error ⟨.misaligned, addr⟩) ∧
    (addr.toNat % 4 ≠ 0 → memAmo s addr f v = .error ⟨.misaligned, addr⟩) ∧
    (addr.toNat % w.bytes = 0 → accessible s.cfg addr w .read = false →
      memRead s addr w = .error ⟨.accessFault, addr⟩) ∧
    (addr.toNat % w.bytes = 0 → accessible s.cfg addr w .write = false →
      memWrite s addr w v = .error ⟨.accessFault, addr⟩) ∧
    (addr.toNat % 4 = 0 → accessible s.cfg addr .word .read = false ∨ accessible s.cfg addr .word .write = false →
      memAmo s addr f v = .error ⟨.accessFault, addr⟩)

/-! ### Fences, ECALL, EBREAK, INVALID -/

/-- FENCE and FENCE.I change nothing but pc; where the capability of FENCE.I is not built in, its word is INVALID and traps
(R190, R191). -/
def Obligations.FencesOnlyAdvancePc : Prop :=
  ∀ s : State,
    (s.Ready .base → ∃ t, exec .fence s = .next t ∧ Continues s t ∧ RegisterFrame s t none) ∧
    (s.Ready .zifencei → ∃ t, exec .fenceI s = .next t ∧ Continues s t ∧ RegisterFrame s t none) ∧
    (s.hart.defect = false → s.cfg.hasZifencei = false →
      ∃ t, executeOp (decodeOperation s.cfg 0x0000100F) s = .next t ∧ Traps s t .illegalInstruction 0x0000100F)

/-- ECALL traps with value 0, which under the reference driver ends the hart's run, and EBREAK traps with its own address
(R192, R193). -/
def Obligations.EcallAndEbreakTrap : Prop :=
  ∀ s : State, s.Ready .base →
    TakesTrap .ecall s .environmentCall 0 ∧
    (∃ t, driver (exec .ecall s) = .next t ∧ t.hart.halted = some (.environmentCall, 0)) ∧
    TakesTrap .ebreak s .breakpoint s.hart.pc

/-- INVALID always traps with the instruction word, and every word that no row of the tables selects is INVALID (R109). -/
def Obligations.InvalidAlwaysTraps : Prop :=
  ∀ (s : State), s.hart.defect = false →
    (∀ op : Operation, op.kind = .invalid → ∃ t, executeOp op s = .next t ∧ Traps s t .illegalInstruction op.raw) ∧
    (∀ w : Word, (∀ r ∈ opcodeRows, ¬ r.Selects s.cfg w) →
      ∃ t, executeOp (decodeOperation s.cfg w) s = .next t ∧ Traps s t .illegalInstruction w)

/-! ### CSR instructions -/

/-- What of the machine a CSR instruction leaves alone: everything but the hart's CSR unit, pc, the Outcome and the
destination register (R209). -/
structure CsrFrame (s t : State) (dest : Option Reg) : Prop where
  regs : RegsKept s t dest
  mem : MemKept s t
  resv : t.hart.resv = s.hart.resv
  control : SameHartControl s t
  below : t.below = s.below
  above : t.above = s.above
  system : SameSystem s t

/-- The common CSR rule (R209) with `do_read`, `do_write` and `new(old, src)` of an instruction that reads the CSR. The unit
sees the read and after it, where the instruction writes, the write (`csrAfterRead` and `csrWrite`, R201, R202). How the model
holds an open unit is its choice (log entry 11). -/
def CsrReadRule (i : Instr) (s : State) (rd : Reg) (csr : CsrAddr) (raw : Word) (doWrite : Bool)
    (new : Word → Word) : Prop :=
  (doWrite = true → csrWritable s csr = false → TakesTrap i s .illegalInstruction raw) ∧
  ((doWrite = true → csrWritable s csr = true) → csrRead s csr = none → TakesTrap i s .illegalInstruction raw) ∧
  (∀ old, (doWrite = true → csrWritable s csr = true) → csrRead s csr = some old →
    ∃ t, exec i s = .next t ∧ Continues s t ∧ CsrFrame s t (some rd) ∧ t.reg rd = destValue rd old ∧
      t.hart.csrs = (if doWrite then csrWrite (csrAfterRead s csr) csr (new old) else csrAfterRead s csr).hart.csrs)

/-- The common CSR rule (R209) for an instruction that writes `v` and does not read, so that no read side effect happens
(R202): CSRRW and CSRRWI with `rd = x0`. -/
def CsrWriteRule (i : Instr) (s : State) (csr : CsrAddr) (raw : Word) (v : Word) : Prop :=
  (csrWritable s csr = false → TakesTrap i s .illegalInstruction raw) ∧
  (csrWritable s csr = true →
    ∃ t, exec i s = .next t ∧ Continues s t ∧ CsrFrame s t none ∧ t.hart.csrs = (csrWrite s csr v).hart.csrs)

/-- The six CSR instructions (R202 to R209), on every CSR unit the model holds; that an open unit is a table or a pair of numbers
with free answers is the model's choice, as is that a table has no read side effect (log entry 11). -/
def Obligations.CsrInstructionsFollowTheCommonRule : Prop :=
  ∀ (s : State) (rd rs1 : Reg) (imm : Word) (csr : CsrAddr) (raw : Word), s.Ready .zicsr →
    (rd ≠ 0 → CsrReadRule (.csrrw rd rs1 csr raw) s rd csr raw true (fun _ => s.reg rs1)) ∧
    CsrWriteRule (.csrrw 0 rs1 csr raw) s csr raw (s.reg rs1) ∧
    CsrReadRule (.csrrs rd rs1 csr raw) s rd csr raw (rs1 != 0) (fun old => old ||| s.reg rs1) ∧
    CsrReadRule (.csrrc rd rs1 csr raw) s rd csr raw (rs1 != 0) (fun old => old &&& ~~~ s.reg rs1) ∧
    (rd ≠ 0 → CsrReadRule (.csrrwi rd rs1 imm csr raw) s rd csr raw true (fun _ => imm)) ∧
    CsrWriteRule (.csrrwi 0 rs1 imm csr raw) s csr raw imm ∧
    CsrReadRule (.csrrsi rd rs1 imm csr raw) s rd csr raw (rs1 != 0) (fun old => old ||| imm) ∧
    CsrReadRule (.csrrci rd rs1 imm csr raw) s rd csr raw (rs1 != 0) (fun old => old &&& ~~~ imm)

/-- On a unit that is a table, a read changes nothing; a write where the CSR is writable changes that CSR to what it stores of the
value, and no other CSR; a write where it is not is `Fault` and changes nothing (R201). That a table is so is the model's choice; units that are otherwise are the open ones (log
entry 11). -/
def Obligations.CsrWriteChangesOneCsr : Prop :=
  ∀ (s : State) (cs : List Csr) (a b : CsrAddr) (v : Word), s.hart.csrs = .table cs →
    csrAfterRead s a = s ∧
    (csrWritable s a = true → (csrWrite s a v).hart.csrs = .table (csrPut cs a v) ∧
      csrFind (csrPut cs a v) a = (csrFind cs a).map (fun c => { c with value := c.stored v }) ∧
      (b ≠ a → csrFind (csrPut cs a v) b = csrFind cs b)) ∧
    (csrWritable s a = false → csrWrite s a v = s)

/-- The reference CSR unit (R211): 0x340 holds any value written to it, 0xF14 reads the hart's index and is not writable,
and no other CSR exists. -/
def Obligations.ReferenceCsrUnitBehaves : Prop :=
  ∀ (s : State) (h : Nat) (v : Word) (a : CsrAddr), s.hart.csrs = .table (csrPut (referenceCsrs h) 0x340 v) →
    csrRead s 0x340 = some v ∧ csrWritable s 0x340 = true ∧
    csrRead s 0xF14 = some (BitVec.ofNat 32 h) ∧ csrWritable s 0xF14 = false ∧
    (a ≠ 0x340 → a ≠ 0xF14 → csrRead s a = none ∧ csrWritable s a = false)

/-! ### Multiply and divide -/

/-- MUL, MULH, MULHSU, MULHU: the low word, and bits 63:32 as the floor of the exact product by 2^32 (R221 to R224). -/
def Obligations.MultiplyResults : Prop :=
  ∀ (s : State) (rd rs1 rs2 : Reg), s.Ready .m →
    WritesRegister (.mul rd rs1 rs2) s rd (BitVec.ofNat 32 ((s.reg rs1).toNat * (s.reg rs2).toNat)) ∧
    WritesRegister (.mulh rd rs1 rs2) s rd (BitVec.ofInt 32 ((s.reg rs1).toInt * (s.reg rs2).toInt / 2 ^ 32)) ∧
    WritesRegister (.mulhsu rd rs1 rs2) s rd (BitVec.ofInt 32 ((s.reg rs1).toInt * ((s.reg rs2).toNat : Int) / 2 ^ 32)) ∧
    WritesRegister (.mulhu rd rs1 rs2) s rd (BitVec.ofNat 32 ((s.reg rs1).toNat * (s.reg rs2).toNat / 2 ^ 32))

/-- DIV, DIVU, REM, REMU with their fixed results for a zero divisor and for the overflow (R225 to R228). -/
def Obligations.DivideResults : Prop :=
  ∀ (s : State) (rd rs1 rs2 : Reg), s.Ready .m →
    WritesRegister (.div rd rs1 rs2) s rd
      (if s.reg rs2 = 0 then 0xFFFFFFFF
       else if s.reg rs1 = 0x80000000 ∧ s.reg rs2 = 0xFFFFFFFF then 0x80000000
       else BitVec.ofInt 32 (Int.tdiv (s.reg rs1).toInt (s.reg rs2).toInt)) ∧
    WritesRegister (.divu rd rs1 rs2) s rd
      (if s.reg rs2 = 0 then 0xFFFFFFFF else BitVec.ofNat 32 ((s.reg rs1).toNat / (s.reg rs2).toNat)) ∧
    WritesRegister (.rem rd rs1 rs2) s rd
      (if s.reg rs2 = 0 then s.reg rs1
       else if s.reg rs1 = 0x80000000 ∧ s.reg rs2 = 0xFFFFFFFF then 0
       else BitVec.ofInt 32 ((s.reg rs1).toInt - (s.reg rs2).toInt * Int.tdiv (s.reg rs1).toInt (s.reg rs2).toInt)) ∧
    WritesRegister (.remu rd rs1 rs2) s rd
      (if s.reg rs2 = 0 then s.reg rs1 else BitVec.ofNat 32 ((s.reg rs1).toNat % (s.reg rs2).toNat))

/-- The laws of the family (R229), for the functions the divide and multiply handlers compute. -/
def Obligations.MultiplyDivideLaws : Prop :=
  ∀ a b : Word,
    (b ≠ 0 → divSigned a b * b + remSigned a b = a) ∧
    (b ≠ 0 → ¬ (a = 0x80000000 ∧ b = 0xFFFFFFFF) →
      (remSigned a b).toInt.natAbs < b.toInt.natAbs ∧
      ((remSigned a b).toInt = 0 ∨ ((remSigned a b).toInt < 0 ↔ a.toInt < 0))) ∧
    (b ≠ 0 → (divUnsigned a b).toNat * b.toNat + (remUnsigned a b).toNat = a.toNat ∧
      (remUnsigned a b).toNat < b.toNat) ∧
    (divSigned 0x80000000 0xFFFFFFFF = 0x80000000 ∧ remSigned 0x80000000 0xFFFFFFFF = 0) ∧
    (divSigned a 0 = 0xFFFFFFFF ∧ divUnsigned a 0 = 0xFFFFFFFF ∧ remSigned a 0 = a ∧ remUnsigned a 0 = a) ∧
    (highHalf (a.toInt * b.toInt)).toInt * 2 ^ 32 + ((a * b).toNat : Int) = a.toInt * b.toInt ∧
    (highHalf ((a.toNat : Int) * (b.toNat : Int))).toNat * 2 ^ 32 + (a * b).toNat = a.toNat * b.toNat ∧
    (highHalf (a.toInt * (b.toNat : Int))).toInt * 2 ^ 32 + ((a * b).toNat : Int) = a.toInt * (b.toNat : Int)

/-! ### Atomics -/

/-- LR.W: reads the word and installs the reservation, or traps with the load causes and installs nothing (R241). -/
def Obligations.LoadReservedInstalls : Prop :=
  ∀ (s : State) (rd rs1 : Reg) (aq rl : Bool), s.Ready .a →
    (AccessOk s (s.reg rs1) .word [.read] →
      ∃ t, exec (.lrW rd rs1 aq rl) s = .next t ∧ Continues s t ∧
        t.reg rd = destValue rd (BitVec.ofNat 32 (bytesAt s (s.reg rs1).toNat 4)) ∧
        t.hart.resv = some ⟨s.reg rs1, 4⟩ ∧ RegisterFrame s (t.setResv s.hart.resv) (some rd)) ∧
    ((s.reg rs1).toNat % 4 ≠ 0 → TakesTrap (.lrW rd rs1 aq rl) s .loadAddrMisaligned (s.reg rs1)) ∧
    ((s.reg rs1).toNat % 4 = 0 → accessible s.cfg (s.reg rs1) .word .read = false →
      TakesTrap (.lrW rd rs1 aq rl) s .loadAccessFault (s.reg rs1))

/-- SC.W (R242, R244): alignment first; with a matching reservation it stores, writes 0 and clears the reservation, or traps
when the word is not writable; with no matching reservation it writes 1, accesses nothing and leaves the reservation. -/
def Obligations.StoreConditionalFollowsReservation : Prop :=
  ∀ (s : State) (rd rs1 rs2 : Reg) (aq rl : Bool), s.Ready .a →
    ((s.reg rs1).toNat % 4 ≠ 0 → TakesTrap (.scW rd rs1 rs2 aq rl) s .storeAddrMisaligned (s.reg rs1)) ∧
    (s.hart.resv = some ⟨s.reg rs1, 4⟩ → AccessOk s (s.reg rs1) .word [.write] →
      ∃ t, exec (.scW rd rs1 rs2 aq rl) s = .next t ∧ Continues s t ∧ t.reg rd = 0 ∧ t.hart.resv = none ∧
        (∀ k, k < 4 → Memory.read t.mem ((s.reg rs1).toNat + k) = (s.reg rs2).extractLsb' (8 * k) 8) ∧
        StoreFrame s t (some rd) (s.reg rs1).toNat 4) ∧
    ((s.reg rs1).toNat % 4 = 0 → s.hart.resv = some ⟨s.reg rs1, 4⟩ →
      accessible s.cfg (s.reg rs1) .word .write = false →
      TakesTrap (.scW rd rs1 rs2 aq rl) s .storeAccessFault (s.reg rs1)) ∧
    ((s.reg rs1).toNat % 4 = 0 → s.hart.resv ≠ some ⟨s.reg rs1, 4⟩ →
      WritesRegister (.scW rd rs1 rs2 aq rl) s rd 1)

/-- The common AMO rule (R260) with the new word of the instruction. -/
def AmoRule (i : Instr) (s : State) (rd : Reg) (ea : Word) (new : Word → Word) : Prop :=
  (AccessOk s ea .word [.read, .write] →
    ∃ t, exec i s = .next t ∧ Continues s t ∧
      t.reg rd = destValue rd (BitVec.ofNat 32 (bytesAt s ea.toNat 4)) ∧
      BitVec.ofNat 32 (bytesAt t ea.toNat 4) = new (BitVec.ofNat 32 (bytesAt s ea.toNat 4)) ∧
      StoreFrame s t (some rd) ea.toNat 4 ∧ SlotAfterStore ea.toNat 4 s.hart.resv t.hart.resv) ∧
  (ea.toNat % 4 ≠ 0 → TakesTrap i s .storeAddrMisaligned ea) ∧
  (ea.toNat % 4 = 0 → accessible s.cfg ea .word .read = false ∨ accessible s.cfg ea .word .write = false →
    TakesTrap i s .storeAccessFault ea)

/-- The nine AMOs (R260 to R269). -/
def Obligations.AmosUpdateTheirWord : Prop :=
  ∀ (s : State) (rd rs1 rs2 : Reg) (aq rl : Bool), s.Ready .a →
    AmoRule (.amoswapW rd rs1 rs2 aq rl) s rd (s.reg rs1) (fun _ => s.reg rs2) ∧
    AmoRule (.amoaddW rd rs1 rs2 aq rl) s rd (s.reg rs1) (fun old => old + s.reg rs2) ∧
    AmoRule (.amoxorW rd rs1 rs2 aq rl) s rd (s.reg rs1) (fun old => old ^^^ s.reg rs2) ∧
    AmoRule (.amoandW rd rs1 rs2 aq rl) s rd (s.reg rs1) (fun old => old &&& s.reg rs2) ∧
    AmoRule (.amoorW rd rs1 rs2 aq rl) s rd (s.reg rs1) (fun old => old ||| s.reg rs2) ∧
    AmoRule (.amominW rd rs1 rs2 aq rl) s rd (s.reg rs1)
      (fun old => if old.toInt ≤ (s.reg rs2).toInt then old else s.reg rs2) ∧
    AmoRule (.amomaxW rd rs1 rs2 aq rl) s rd (s.reg rs1)
      (fun old => if old.toInt ≥ (s.reg rs2).toInt then old else s.reg rs2) ∧
    AmoRule (.amominuW rd rs1 rs2 aq rl) s rd (s.reg rs1)
      (fun old => if old.toNat ≤ (s.reg rs2).toNat then old else s.reg rs2) ∧
    AmoRule (.amomaxuW rd rs1 rs2 aq rl) s rd (s.reg rs1)
      (fun old => if old.toNat ≥ (s.reg rs2).toNat then old else s.reg rs2)

/-- An SC.W that follows a matching LR.W of the same hart always succeeds (R243): it writes 0, stores its register and clears
the reservation. -/
def Obligations.ScAfterMatchingLrSucceeds : Prop :=
  ∀ (s t : State) (rd rs1 : Reg) (rd' rs1' rs2' : Reg) (aq rl aq' rl' : Bool), s.Ready .a →
    AccessOk s (s.reg rs1) .word [.read, .write] → exec (.lrW rd rs1 aq rl) s = .next t → t.reg rs1' = s.reg rs1 →
    ∃ u, exec (.scW rd' rs1' rs2' aq' rl') t = .next u ∧ Continues t u ∧ u.reg rd' = 0 ∧ u.hart.resv = none ∧
      BitVec.ofNat 32 (bytesAt u (s.reg rs1).toNat 4) = t.reg rs2'

/-- A store that meets a reservation of hart k: the slot of hart k is empty afterwards, and the next SC.W of hart k to any
multiple of 4 fails, writing 1 and no byte (R45, R242). -/
def BreaksReservation (i : Instr) (s : State) (ea : Word) (w : Width) : Prop :=
  ∀ (t u : State) (k : Nat) (h : Hart) (r : Reservation) (rd rs1 rs2 : Reg) (aq rl : Bool),
    AccessOk s ea w [.write] → s.harts[k]? = some h → h.resv = some r → r.Meets ea.toNat w.bytes →
    exec i s = .next t → t.focus k = some u → u.Ready .a → (u.reg rs1).toNat % 4 = 0 →
    u.hart.resv = none ∧ WritesRegister (.scW rd rs1 rs2 aq rl) u rd 1

/-- SB, SH and SW break the reservation of whichever hart holds one that the stored bytes meet (R45, R248). -/
def Obligations.StoresBreakReservations : Prop :=
  ∀ (s : State) (rs1 rs2 : Reg) (imm : Word), s.Ready .base →
    BreaksReservation (.sb rs1 rs2 imm) s (s.reg rs1 + imm) .byte ∧
    BreaksReservation (.sh rs1 rs2 imm) s (s.reg rs1 + imm) .half ∧
    BreaksReservation (.sw rs1 rs2 imm) s (s.reg rs1 + imm) .word

/-- Two harts that each add to one word with AMOADD.W, one after the other, lose no update (R262, R270): the word ends as
the initial value plus both addends. -/
def Obligations.AmoAddsOfTwoHartsAreNotLost : Prop :=
  ∀ (s t u : State) (k : Nat) (rd rs1 rs2 rd' rs1' rs2' : Reg) (aq rl aq' rl' : Bool),
    s.Ready .a → AccessOk s (s.reg rs1) .word [.read, .write] → exec (.amoaddW rd rs1 rs2 aq rl) s = .next t →
    t.focus k = some u → u.Ready .a → u.reg rs1' = s.reg rs1 →
    ∃ v, exec (.amoaddW rd' rs1' rs2' aq' rl') u = .next v ∧
      BitVec.ofNat 32 (bytesAt v (s.reg rs1).toNat 4) =
        BitVec.ofNat 32 (bytesAt s (s.reg rs1).toNat 4) + s.reg rs2 + u.reg rs2'

/-- The acquire and release qualifiers change nothing (R56, R247, R260; log entry 20). -/
def Obligations.QualifiersChangeNothing : Prop :=
  ∀ (s : State) (rd rs1 rs2 : Reg) (aq rl aq' rl' : Bool),
    exec (.lrW rd rs1 aq rl) s = exec (.lrW rd rs1 aq' rl') s ∧
    exec (.scW rd rs1 rs2 aq rl) s = exec (.scW rd rs1 rs2 aq' rl') s ∧
    exec (.amoswapW rd rs1 rs2 aq rl) s = exec (.amoswapW rd rs1 rs2 aq' rl') s ∧
    exec (.amoaddW rd rs1 rs2 aq rl) s = exec (.amoaddW rd rs1 rs2 aq' rl') s ∧
    exec (.amoxorW rd rs1 rs2 aq rl) s = exec (.amoxorW rd rs1 rs2 aq' rl') s ∧
    exec (.amoandW rd rs1 rs2 aq rl) s = exec (.amoandW rd rs1 rs2 aq' rl') s ∧
    exec (.amoorW rd rs1 rs2 aq rl) s = exec (.amoorW rd rs1 rs2 aq' rl') s ∧
    exec (.amominW rd rs1 rs2 aq rl) s = exec (.amominW rd rs1 rs2 aq' rl') s ∧
    exec (.amomaxW rd rs1 rs2 aq rl) s = exec (.amomaxW rd rs1 rs2 aq' rl') s ∧
    exec (.amominuW rd rs1 rs2 aq rl) s = exec (.amominuW rd rs1 rs2 aq' rl') s ∧
    exec (.amomaxuW rd rs1 rs2 aq rl) s = exec (.amomaxuW rd rs1 rs2 aq' rl') s

/-! ### Rules over all instructions -/

/-- The frame rule for registers (R23): an Operation writes at most its destination, and none when it traps; x0 reads 0
before and after (R21). -/
def Obligations.OnlyTheDestinationIsWritten : Prop :=
  ∀ (op : Operation) (s t : State), executeOp op s = .next t →
    RegsKept s t (destOf op) ∧ s.reg 0 = 0 ∧ t.reg 0 = 0 ∧
      (∀ c v, t.hart.outcome = some (.trapped c v) → RegsKept s t none)

/-- pc after each Outcome (R24, R105 to R107): advanced by exactly 4 on Continue, the target, a multiple of 4, on Jump,
unchanged on Trap and where no Outcome is returned. -/
def Obligations.PcFollowsTheOutcome : Prop :=
  ∀ (op : Operation) (s t : State), executeOp op s = .next t →
    (t.hart.outcome = some .continued → t.hart.pc = s.hart.pc + 4) ∧
    (∀ a, t.hart.outcome = some (.jumped a) → t.hart.pc = a ∧ a.toNat % 4 = 0) ∧
    (∀ c v, t.hart.outcome = some (.trapped c v) → t.hart.pc = s.hart.pc) ∧
    (t.hart.outcome = none → t.hart.pc = s.hart.pc)

/-- Traps are precise, whatever traps, a fetch included (R311, R312, R313): the only state change is that the hart's own
reservation is cleared. -/
def Obligations.TrapsArePrecise : Prop :=
  ∀ (s t : State) (c : Cause) (v : Word), t.hart.outcome = some (.trapped c v) →
    (∀ op : Operation, executeOp op s = .next t → Traps s t c v) ∧
    (s.hart.fetched = none → execute s = .next t → Traps s t c v)

/-- Harts share memory and the reservation table and nothing else (R20, R27, R328): an instruction of one hart changes
another hart's state at most by clearing its reservation. -/
def Obligations.OtherHartsOnlyLoseReservations : Prop :=
  ∀ (i : Instr) (s t : State), exec i s = .next t →
    List.Forall₂ (fun h h' => h.SameButSlot h' ∧ (h'.resv = h.resv ∨ h'.resv = none)) s.below t.below ∧
    List.Forall₂ (fun h h' => h.SameButSlot h' ∧ (h'.resv = h.resv ∨ h'.resv = none)) s.above t.above ∧
    SameSystem s t

/-- No instruction but the six CSR instructions writes a CSR; in particular a trap writes none (R29, R311). -/
def Obligations.OnlyCsrInstructionsWriteCsrs : Prop :=
  ∀ (i : Instr) (s t : State), exec i s = .next t → i.capability ≠ .zicsr → t.hart.csrs = s.hart.csrs

/-- No instruction but the stores, SC.W and the AMOs changes a byte of memory (R43, R44, R46). -/
def Obligations.OnlyStoresWriteMemory : Prop :=
  ∀ (i : Instr) (s t : State), exec i s = .next t → storesMemory i = false → MemKept s t

/-- What does not break a reservation (R245): an instruction that is no store, no LR.W and does not trap leaves the hart's
own reservation as it was. -/
def Obligations.ReservationSurvivesOtherInstructions : Prop :=
  ∀ (i : Instr) (s t : State), exec i s = .next t → storesMemory i = false → isLoadReserved i = false →
    (∀ c v, t.hart.outcome ≠ some (.trapped c v)) → t.hart.resv = s.hart.resv

/-- Every call of `execute_op` returns (R346): the instruction answers a next state, unless the hart is defective, and then
it is refused. -/
def Obligations.EveryCallReturns : Prop :=
  ∀ (i : Instr) (s : State),
    (s.hart.defect = false → ∃ t, exec i s = .next t) ∧ (s.hart.defect = true → exec i s = .refused .defect)

/-- A kind whose capability is not built in sets the sticky defect flag, returns no Outcome and changes nothing else
(R104, R108; log entry 10). -/
def Obligations.DisabledKindSetsDefect : Prop :=
  ∀ (i : Instr) (s : State), s.hart.defect = false → s.cfg.has i.capability = false →
    ∃ t, exec i s = .next t ∧ t.hart.defect = true ∧ t.hart.outcome = none ∧
      t = { s with hart := { s.hart with defect := true, outcome := none } }

/-- The defect cannot be reached through `execute` with the reference decoder (R108): neither a whole `execute` nor the rest of
one whose fetch is done sets it, where the remembered Operation is one the decoder can answer (an invariant of the machine,
`StepKeepsTheInvariant`), and no step but a direct call of `execute_op` makes a hart defective. -/
def Obligations.ExecuteNeverSetsDefect : Prop :=
  (∀ s t : State, (∀ op, s.hart.fetched = some op → BuiltIn s.cfg op) → execute s = .next t → t.hart.defect = false) ∧
  (∀ (s t : State) (k : Nat) (h h' : Hart), s.Inv → (∀ j op, s.inputs.head? ≠ some (.call j op)) → step s = .next t →
    s.harts[k]? = some h → t.harts[k]? = some h' → h.defect = false → h'.defect = false)

/-! ### Fetch and the step -/

/-- Fetch faults (R50, R103): a misaligned pc, then a pc that cannot be fetched from, trap with the pc and change nothing but
the reservation. -/
def Obligations.FetchFaultsTrap : Prop :=
  ∀ s : State, s.hart.defect = false → s.hart.fetched = none →
    (s.hart.pc.toNat % 4 ≠ 0 → ∃ t, execute s = .next t ∧ Traps s t .instrAddrMisaligned s.hart.pc) ∧
    (s.hart.pc.toNat % 4 = 0 → accessible s.cfg s.hart.pc .word .fetch = false →
      ∃ t, execute s = .next t ∧ Traps s t .instrAccessFault s.hart.pc)

/-- The four bytes at pc, lowest address first. -/
def fetchBytes (s : State) : List Byte :=
  [Memory.read s.mem s.hart.pc.toNat, Memory.read s.mem (s.hart.pc.toNat + 1),
   Memory.read s.mem (s.hart.pc.toNat + 2), Memory.read s.mem (s.hart.pc.toNat + 3)]

/-- A step runs the decoded instruction (R103, R104, R112): where the layer above lets hart k run, or only hart k can move, and
the bytes at its pc decode to i, the step is `exec i` on that hart, with the tick counted, the input taken off the queue and
the driver's halt after a trap (the queue and the tick are the model's, log entry 7). -/
def Obligations.StepRunsTheDecodedInstruction : Prop :=
  ∀ (s u : State) (k : Nat) (i : Instr), s.begin.focus k = some u → u.hart.canMove = true → u.hart.fetched = none →
    AccessOk u u.hart.pc .word [.fetch] → decodeBytes u.cfg (fetchBytes u) = .ok (i, []) →
    (s.inputs.head? = some (.run k) ∨ (s.inputs = [] ∧ movableFrom 0 s.harts = [k])) →
    step s = driver (exec i u)

/-- A word that is no instruction of the enabled set, where it is fetched, traps with the word (R79, R91, R109). -/
def Obligations.StepTrapsOnInvalidWords : Prop :=
  ∀ (s : State) (r : Reject), s.hart.defect = false → s.hart.fetched = none → AccessOk s s.hart.pc .word [.fetch] →
    decodeBytes s.cfg (fetchBytes s) = .error r →
    ∃ t, execute s = .next t ∧ Traps s t .illegalInstruction (BitVec.ofNat 32 (bytesAt s s.hart.pc.toNat 4))

/-- The two events of an `execute` (R55): the fetch event changes nothing but the Operation remembered, and the second event
runs that Operation, whatever memory holds by then (where it is remembered is the model's choice, log entry 8). -/
def Obligations.ExecuteIsTwoEvents : Prop :=
  ∀ (s u : State) (k : Nat), s.begin.focus k = some u → s.inputs.head? = some (.event k) → u.hart.canMove = true →
    (u.hart.fetched = none → ∀ op, loadInstruction u = .ok op → step s = .next (u.setFetched (some op))) ∧
    (∀ op, u.hart.fetched = some op → step s = driver (executeOp op (u.setFetched none)))

/-- A store is seen by every later fetch, with no fence (R58): after SW to an address, a hart whose pc is that address
fetches the stored word. -/
def Obligations.StoresAreSeenByLaterFetches : Prop :=
  ∀ (s t u : State) (k : Nat) (rs1 rs2 : Reg) (imm : Word), s.Ready .base →
    AccessOk s (s.reg rs1 + imm) .word [.write] → exec (.sw rs1 rs2 imm) s = .next t → t.focus k = some u →
    u.hart.pc = s.reg rs1 + imm → accessible u.cfg u.hart.pc .word .fetch = true →
    loadInstruction u = .ok (decodeOperation u.cfg (s.reg rs2))

/-- The reference driver (R112): a call that traps halts the hart in `Trapped(c, v)`, whether the driver makes the call whole
or event by event; and a halted hart performs no further event, neither where it is asked for one nor where the system chooses
the next move: a store of another hart may clear its reservation and nothing else of it changes. The queue is the model's (log
entry 7), and a direct `execute_op` call, which no driver makes and which the model lets run on a halted hart, is left out (log
entry 21). -/
def Obligations.DriverHaltsOnTrap : Prop :=
  (∀ (s u : State) (k : Nat), s.begin.focus k = some u →
    ((s.inputs.head? = some (.run k) ∨ (s.inputs.head? = some (.event k) ∧
        (u.hart.fetched.isSome = true ∨ ∃ f, loadInstruction u = .error f))) → u.hart.canMove = true →
      ∀ t c v, execute u = .next t → t.hart.outcome = some (.trapped c v) →
        ∃ t', step s = .next t' ∧ t'.hart.halted = some (c, v) ∧ t'.hart.pc = t.hart.pc ∧ t'.hart.regs = t.hart.regs
          ∧ t'.mem = t.mem) ∧
    ((s.inputs.head? = some (.run k) ∨ s.inputs.head? = some (.event k)) → u.hart.halted.isSome = true →
      step s = .next u ∧ u.harts = s.harts ∧ u.mem = s.mem)) ∧
  (∀ (s t : State) (k : Nat) (h : Hart), (∀ i, s.inputs.head? = some i → ∃ j, i = .run j ∨ i = .event j) →
    step s = .next t → s.harts[k]? = some h → h.halted.isSome = true →
    ∃ h', t.harts[k]? = some h' ∧ h.SameButSlot h' ∧ (h'.resv = h.resv ∨ h'.resv = none))

/-- The end of a run (R112): with nothing queued, the step answers a next state if some hart can move and stops if none can; a
run in which every hart is halted ends in the final state, and one in which a hart is defective is refused
(the fault's name is the model's, log entry 15). -/
def Obligations.RunEndsWhenNoHartMoves : Prop :=
  ∀ s : State, s.inputs = [] →
    ((∃ h ∈ s.harts, h.canMove = true) → ∃ t, step s = .next t) ∧
    ((∀ h ∈ s.harts, h.canMove = false) →
      ((∀ h ∈ s.harts, h.defect = false) → step s = .fault .allHalted) ∧
      ((∃ h ∈ s.harts, h.defect = true) → step s = .refused .defect))

/-- The context-switch signal clears the hart's reservation and changes nothing else (R314). -/
def Obligations.ContextSwitchClearsOneReservation : Prop :=
  ∀ (s u : State) (k : Nat), s.begin.focus k = some u → s.inputs.head? = some (.contextSwitch k) →
    u.hart.fetched = none →
    ∃ t, step s = .next t ∧ t.hart = { u.hart with resv := none } ∧ t.below = u.below ∧ t.above = u.above ∧
      t.mem = s.mem ∧ t.cfg = s.cfg ∧ u.harts = s.harts

/-- The reset input (R340): every hart's pc takes its RESET_PC, its reservation None and its defect flag false; reset writes
no memory and makes no request to a CSR unit; x1 to x31 are not specified. The model's choices here are that memory is as before,
the memory unit having no reset behaviour of its own (log entry 23), that a CSR unit is as before, its own reset behaviour being
the input `csrUnit` (log entries 11 and 22), and that the driver's halt is cleared, so that each hart is ready to execute (R341;
log entry 12). -/
def Obligations.ResetInputSetsEveryHart : Prop :=
  ∀ s : State, s.inputs.head? = some .reset → (∀ h ∈ s.harts, h.fetched = none) →
    ∃ t, step s = .next t ∧ t.mem = s.mem ∧ t.cfg = s.cfg ∧
      List.Forall₂ (fun h h' => h'.pc = h.resetPc ∧ h'.resv = none ∧ h'.defect = false ∧ h'.csrs = h.csrs ∧
        h'.resetPc = h.resetPc ∧ h'.canMove = true ∧ RegFile.read h'.regs 0 = 0) s.harts t.harts

/-- A store by an agent that is no hart goes through the store path (R60): it clears every overlapping reservation. That
a faulting write changes nothing is the model's reading (log entry 18). -/
def Obligations.AgentStoresUseTheStorePath : Prop :=
  ∀ (s : State) (addr : Word) (w : Width) (v : Word), s.inputs.head? = some (.agentWrite addr w v) →
    (AccessOk s addr w [.write] → ∃ t, step s = .next t ∧ MemKeptOutside s t addr.toNat w.bytes ∧
      (∀ k, k < w.bytes → Memory.read t.mem (addr.toNat + k) = v.extractLsb' (8 * k) 8) ∧
      List.Forall₂ (Hart.SeesStore addr.toNat w.bytes) s.harts t.harts) ∧
    (¬ AccessOk s addr w [.write] → step s = .next s.begin)

/-! ### Invariants -/

/-- After reset, for every choice of the open parameters (R33): hart k has pc at its RESET_PC, x0 reading 0, no reservation, no
defect and its own CSR unit; and with every RESET_PC a multiple of 4 the invariant holds, of `State.reset` too. -/
def Obligations.ResetMeetsTheInvariant : Prop :=
  (∀ (cfg : Config) (units : Nat → CsrUnit) (pc0 : Word) (pcs : List Word),
    (State.resetOf cfg units pc0 pcs).harts.length = pcs.length + 1 ∧
    (∀ (k : Nat) (h : Hart), (State.resetOf cfg units pc0 pcs).harts[k]? = some h →
      (pc0 :: pcs)[k]? = some h.pc ∧ h.resetPc = h.pc ∧ RegFile.read h.regs 0 = 0 ∧ h.resv = none ∧ h.defect = false ∧
        h.csrs = units k) ∧
    (pc0.toNat % 4 = 0 → (∀ pc ∈ pcs, pc.toNat % 4 = 0) → (State.resetOf cfg units pc0 pcs).Inv)) ∧
  State.reset.Inv

/-- Every step keeps the invariant (R25, R26): memory stays canonical, every pc stays a multiple of 4, a reservation is always 4
bytes at a multiple of 4 on a machine with the atomics built in, and a remembered Operation is one the decoder can answer. -/
def Obligations.StepKeepsTheInvariant : Prop :=
  ∀ s t : State, s.Inv → step s = .next t → t.Inv

/-- The parameters never change while the machine runs (R2, R9, R31): the configuration, the number of harts and each hart's
RESET_PC are the same after every step. -/
def Obligations.StepKeepsTheParameters : Prop :=
  ∀ s t : State, step s = .next t →
    t.cfg = s.cfg ∧ t.harts.map (fun h => h.resetPc) = s.harts.map (fun h => h.resetPc)

/-- The defect flag is sticky (R28): only the reset input clears it. -/
def Obligations.DefectIsSticky : Prop :=
  ∀ (s t : State) (k : Nat) (h : Hart), step s = .next t → s.inputs.head? ≠ some .reset →
    s.harts[k]? = some h → h.defect = true → ∃ h', t.harts[k]? = some h' ∧ h'.defect = true

/-- An aligned pc never raises the fetch's own misaligned trap (R25): in every state of the invariant a fetch fault is an
access fault. -/
def Obligations.FetchIsNeverMisaligned : Prop :=
  ∀ (s : State) (f : MemFault), s.Inv → loadInstruction s = .error f → f = ⟨.accessFault, s.hart.pc⟩
end

