-- ==== Sys2Proof/Laws/Decode.lean ====
section
/-! SUPPORT. One lemma per field of each encoding format: what the decoder reads back from a word the encoder built
(30_encoding.md rules R80 and R81). -/

namespace Sys2Proof

@[simp] theorem opcodeOf_encR (f7 : BitVec 7) (rs2 rs1 : Reg) (f3 : BitVec 3) (rd : Reg) (op : BitVec 7) :
    opcodeOf (encR f7 rs2 rs1 f3 rd op) = op := by
  unfold opcodeOf encR place
  ext i hi
  interval_cases i <;> simp

@[simp] theorem rdOf_encR (f7 : BitVec 7) (rs2 rs1 : Reg) (f3 : BitVec 3) (rd : Reg) (op : BitVec 7) :
    rdOf (encR f7 rs2 rs1 f3 rd op) = rd := by
  unfold rdOf encR place
  ext i hi
  interval_cases i <;> simp

@[simp] theorem funct3Of_encR (f7 : BitVec 7) (rs2 rs1 : Reg) (f3 : BitVec 3) (rd : Reg) (op : BitVec 7) :
    funct3Of (encR f7 rs2 rs1 f3 rd op) = f3 := by
  unfold funct3Of encR place
  ext i hi
  interval_cases i <;> simp

@[simp] theorem rs1Of_encR (f7 : BitVec 7) (rs2 rs1 : Reg) (f3 : BitVec 3) (rd : Reg) (op : BitVec 7) :
    rs1Of (encR f7 rs2 rs1 f3 rd op) = rs1 := by
  unfold rs1Of encR place
  ext i hi
  interval_cases i <;> simp

@[simp] theorem rs2Of_encR (f7 : BitVec 7) (rs2 rs1 : Reg) (f3 : BitVec 3) (rd : Reg) (op : BitVec 7) :
    rs2Of (encR f7 rs2 rs1 f3 rd op) = rs2 := by
  unfold rs2Of encR place
  ext i hi
  interval_cases i <;> simp

@[simp] theorem funct7Of_encR (f7 : BitVec 7) (rs2 rs1 : Reg) (f3 : BitVec 3) (rd : Reg) (op : BitVec 7) :
    funct7Of (encR f7 rs2 rs1 f3 rd op) = f7 := by
  unfold funct7Of encR place
  ext i hi
  interval_cases i <;> simp

@[simp] theorem opcodeOf_encI (imm : Word) (rs1 : Reg) (f3 : BitVec 3) (rd : Reg) (op : BitVec 7) :
    opcodeOf (encI imm rs1 f3 rd op) = op := by
  unfold opcodeOf encI place
  ext i hi
  interval_cases i <;> simp

@[simp] theorem rdOf_encI (imm : Word) (rs1 : Reg) (f3 : BitVec 3) (rd : Reg) (op : BitVec 7) :
    rdOf (encI imm rs1 f3 rd op) = rd := by
  unfold rdOf encI place
  ext i hi
  interval_cases i <;> simp

@[simp] theorem funct3Of_encI (imm : Word) (rs1 : Reg) (f3 : BitVec 3) (rd : Reg) (op : BitVec 7) :
    funct3Of (encI imm rs1 f3 rd op) = f3 := by
  unfold funct3Of encI place
  ext i hi
  interval_cases i <;> simp

@[simp] theorem rs1Of_encI (imm : Word) (rs1 : Reg) (f3 : BitVec 3) (rd : Reg) (op : BitVec 7) :
    rs1Of (encI imm rs1 f3 rd op) = rs1 := by
  unfold rs1Of encI place
  ext i hi
  interval_cases i <;> simp

@[simp] theorem opcodeOf_encS (imm : Word) (rs2 rs1 : Reg) (f3 : BitVec 3) (op : BitVec 7) :
    opcodeOf (encS imm rs2 rs1 f3 op) = op := by
  unfold opcodeOf encS place
  ext i hi
  interval_cases i <;> simp

@[simp] theorem funct3Of_encS (imm : Word) (rs2 rs1 : Reg) (f3 : BitVec 3) (op : BitVec 7) :
    funct3Of (encS imm rs2 rs1 f3 op) = f3 := by
  unfold funct3Of encS place
  ext i hi
  interval_cases i <;> simp

@[simp] theorem rs1Of_encS (imm : Word) (rs2 rs1 : Reg) (f3 : BitVec 3) (op : BitVec 7) :
    rs1Of (encS imm rs2 rs1 f3 op) = rs1 := by
  unfold rs1Of encS place
  ext i hi
  interval_cases i <;> simp

@[simp] theorem rs2Of_encS (imm : Word) (rs2 rs1 : Reg) (f3 : BitVec 3) (op : BitVec 7) :
    rs2Of (encS imm rs2 rs1 f3 op) = rs2 := by
  unfold rs2Of encS place
  ext i hi
  interval_cases i <;> simp

@[simp] theorem opcodeOf_encB (imm : Word) (rs2 rs1 : Reg) (f3 : BitVec 3) (op : BitVec 7) :
    opcodeOf (encB imm rs2 rs1 f3 op) = op := by
  unfold opcodeOf encB place
  ext i hi
  interval_cases i <;> simp

@[simp] theorem funct3Of_encB (imm : Word) (rs2 rs1 : Reg) (f3 : BitVec 3) (op : BitVec 7) :
    funct3Of (encB imm rs2 rs1 f3 op) = f3 := by
  unfold funct3Of encB place
  ext i hi
  interval_cases i <;> simp

@[simp] theorem rs1Of_encB (imm : Word) (rs2 rs1 : Reg) (f3 : BitVec 3) (op : BitVec 7) :
    rs1Of (encB imm rs2 rs1 f3 op) = rs1 := by
  unfold rs1Of encB place
  ext i hi
  interval_cases i <;> simp

@[simp] theorem rs2Of_encB (imm : Word) (rs2 rs1 : Reg) (f3 : BitVec 3) (op : BitVec 7) :
    rs2Of (encB imm rs2 rs1 f3 op) = rs2 := by
  unfold rs2Of encB place
  ext i hi
  interval_cases i <;> simp

@[simp] theorem opcodeOf_encU (imm : Word) (rd : Reg) (op : BitVec 7) :
    opcodeOf (encU imm rd op) = op := by
  unfold opcodeOf encU place
  ext i hi
  interval_cases i <;> simp

@[simp] theorem rdOf_encU (imm : Word) (rd : Reg) (op : BitVec 7) :
    rdOf (encU imm rd op) = rd := by
  unfold rdOf encU place
  ext i hi
  interval_cases i <;> simp

@[simp] theorem opcodeOf_encJ (imm : Word) (rd : Reg) (op : BitVec 7) :
    opcodeOf (encJ imm rd op) = op := by
  unfold opcodeOf encJ place
  ext i hi
  interval_cases i <;> simp

@[simp] theorem rdOf_encJ (imm : Word) (rd : Reg) (op : BitVec 7) :
    rdOf (encJ imm rd op) = rd := by
  unfold rdOf encJ place
  ext i hi
  interval_cases i <;> simp

@[simp] theorem opcodeOf_encAmo (f5 : BitVec 5) (aq rl : Bool) (rs2 rs1 rd : Reg) :
    opcodeOf (encAmo f5 aq rl rs2 rs1 rd) = 0x2F#7 := by
  unfold opcodeOf encAmo place
  ext i hi
  interval_cases i <;> simp

@[simp] theorem rdOf_encAmo (f5 : BitVec 5) (aq rl : Bool) (rs2 rs1 rd : Reg) :
    rdOf (encAmo f5 aq rl rs2 rs1 rd) = rd := by
  unfold rdOf encAmo place
  ext i hi
  interval_cases i <;> simp

@[simp] theorem funct3Of_encAmo (f5 : BitVec 5) (aq rl : Bool) (rs2 rs1 rd : Reg) :
    funct3Of (encAmo f5 aq rl rs2 rs1 rd) = 0b010#3 := by
  unfold funct3Of encAmo place
  ext i hi
  interval_cases i <;> simp

@[simp] theorem rs1Of_encAmo (f5 : BitVec 5) (aq rl : Bool) (rs2 rs1 rd : Reg) :
    rs1Of (encAmo f5 aq rl rs2 rs1 rd) = rs1 := by
  unfold rs1Of encAmo place
  ext i hi
  interval_cases i <;> simp

@[simp] theorem rs2Of_encAmo (f5 : BitVec 5) (aq rl : Bool) (rs2 rs1 rd : Reg) :
    rs2Of (encAmo f5 aq rl rs2 rs1 rd) = rs2 := by
  unfold rs2Of encAmo place
  ext i hi
  interval_cases i <;> simp

@[simp] theorem funct5Of_encAmo (f5 : BitVec 5) (aq rl : Bool) (rs2 rs1 rd : Reg) :
    funct5Of (encAmo f5 aq rl rs2 rs1 rd) = f5 := by
  unfold funct5Of encAmo place
  ext i hi
  interval_cases i <;> simp

@[simp] theorem opcodeOf_encCsr (csr : CsrAddr) (rs1 : Reg) (f3 : BitVec 3) (rd : Reg) :
    opcodeOf (encCsr csr rs1 f3 rd) = 0x73#7 := by
  unfold opcodeOf encCsr place
  ext i hi
  interval_cases i <;> simp

@[simp] theorem rdOf_encCsr (csr : CsrAddr) (rs1 : Reg) (f3 : BitVec 3) (rd : Reg) :
    rdOf (encCsr csr rs1 f3 rd) = rd := by
  unfold rdOf encCsr place
  ext i hi
  interval_cases i <;> simp

@[simp] theorem funct3Of_encCsr (csr : CsrAddr) (rs1 : Reg) (f3 : BitVec 3) (rd : Reg) :
    funct3Of (encCsr csr rs1 f3 rd) = f3 := by
  unfold funct3Of encCsr place
  ext i hi
  interval_cases i <;> simp

@[simp] theorem rs1Of_encCsr (csr : CsrAddr) (rs1 : Reg) (f3 : BitVec 3) (rd : Reg) :
    rs1Of (encCsr csr rs1 f3 rd) = rs1 := by
  unfold rs1Of encCsr place
  ext i hi
  interval_cases i <;> simp

@[simp] theorem csrOf_encCsr (csr : CsrAddr) (rs1 : Reg) (f3 : BitVec 3) (rd : Reg) :
    csrOf (encCsr csr rs1 f3 rd) = csr := by
  unfold csrOf encCsr place
  ext i hi
  interval_cases i <;> simp

@[simp] theorem uimmOf_encCsr (csr : CsrAddr) (rs1 : Reg) (f3 : BitVec 3) (rd : Reg) :
    uimmOf (encCsr csr rs1 f3 rd) = rs1.setWidth 32 := by
  unfold uimmOf encCsr place
  ext i hi
  interval_cases i <;> simp

@[simp] theorem aqOf_encAmo (f5 : BitVec 5) (aq rl : Bool) (rs2 rs1 rd : Reg) :
    aqOf (encAmo f5 aq rl rs2 rs1 rd) = aq := by
  cases aq <;> cases rl <;> simp [aqOf, encAmo, place]

@[simp] theorem rlOf_encAmo (f5 : BitVec 5) (aq rl : Bool) (rs2 rs1 rd : Reg) :
    rlOf (encAmo f5 aq rl rs2 rs1 rd) = rl := by
  cases aq <;> cases rl <;> simp [rlOf, encAmo, place]

/-- The two lowest bits of a word are those of its opcode. -/
theorem low_two_of_opcode {w : Word} {v : BitVec 7} (h : opcodeOf w = v) : w.extractLsb' 0 2 = v.extractLsb' 0 2 := by
  subst h
  unfold opcodeOf
  ext i hi
  interval_cases i <;> simp

/-- The low bits of a word, written with the spec's slices or with truncation. -/
theorem extract_low (v : Word) (n : Nat) : v.extractLsb' 0 n = v.setWidth n := by
  ext i hi
  simp

theorem immIOf_encI {imm : Word} (rs1 : Reg) (f3 : BitVec 3) (rd : Reg) (op : BitVec 7) (h : immSigned12 imm = true) :
    immIOf (encI imm rs1 f3 rd op) = imm := by
  have hi : imm = (imm.setWidth 12).signExtend 32 := by simpa [immSigned12] using h
  have e : (encI imm rs1 f3 rd op).extractLsb' 20 12 = imm.setWidth 12 := by
    unfold encI place
    ext i hi
    interval_cases i <;> simp
  rw [immIOf, e]
  exact hi.symm

theorem shamtOf_encShamt {imm : Word} (f7 : BitVec 7) (rs1 : Reg) (f3 : BitVec 3) (rd : Reg) (op : BitVec 7)
    (h : immShamt imm = true) : shamtOf (encShamt f7 imm rs1 f3 rd op) = imm := by
  have hi : imm = (imm.setWidth 5).setWidth 32 := by simpa [immShamt] using h
  have e : (encShamt f7 imm rs1 f3 rd op).extractLsb' 20 5 = imm.setWidth 5 := by
    rw [← extract_low]
    exact rs2Of_encR f7 (imm.extractLsb' 0 5) rs1 f3 rd op
  rw [shamtOf, e]
  exact hi.symm

theorem immSOf_encS {imm : Word} (rs2 rs1 : Reg) (f3 : BitVec 3) (op : BitVec 7) (h : immSigned12 imm = true) :
    immSOf (encS imm rs2 rs1 f3 op) = imm := by
  have hi : imm = (imm.setWidth 12).signExtend 32 := by simpa [immSigned12] using h
  have e : (place ((encS imm rs2 rs1 f3 op).extractLsb' 25 7) 5
      ||| place ((encS imm rs2 rs1 f3 op).extractLsb' 7 5) 0).setWidth 12 = imm.setWidth 12 := by
    unfold encS place
    ext i hi
    interval_cases i <;> simp
  rw [immSOf, e]
  exact hi.symm

theorem immBOf_encB {imm : Word} (rs2 rs1 : Reg) (f3 : BitVec 3) (op : BitVec 7) (h : immBranch imm = true) :
    immBOf (encB imm rs2 rs1 f3 op) = imm := by
  obtain ⟨hi, h0⟩ : imm = (imm.setWidth 13).signExtend 32 ∧ imm[0] = false := by simpa [immBranch] using h
  have e : (place ((encB imm rs2 rs1 f3 op).extractLsb' 31 1) 12 ||| place ((encB imm rs2 rs1 f3 op).extractLsb' 7 1) 11
      ||| place ((encB imm rs2 rs1 f3 op).extractLsb' 25 6) 5
      ||| place ((encB imm rs2 rs1 f3 op).extractLsb' 8 4) 1).setWidth 13 = imm.setWidth 13 := by
    unfold encB place
    ext i hi
    interval_cases i <;> simp [h0]
  rw [immBOf, e]
  exact hi.symm

theorem immUOf_encU {imm : Word} (rd : Reg) (op : BitVec 7) (h : immUpper imm = true) :
    immUOf (encU imm rd op) = imm := by
  have h0 : imm.setWidth 12 = 0#12 := by simpa [immUpper] using h
  have e : (encU imm rd op).extractLsb' 12 20 = imm.extractLsb' 12 20 := by
    unfold encU place
    ext i hi
    interval_cases i <;> simp
  rw [immUOf, e, place]
  ext i hi
  by_cases hl : i < 12
  · have hz := congrArg (fun v => v.getLsbD i) h0
    simp only [BitVec.getLsbD_setWidth, hl, decide_true, Bool.true_and, BitVec.getLsbD_zero] at hz
    simp [hl, ← BitVec.getLsbD_eq_getElem, hz]
  · have hs : 12 + (i - 12) = i := by omega
    have hb : i - 12 < 20 := by omega
    simpa [hl, BitVec.getElem_shiftLeft, hs, hb] using BitVec.getLsbD_eq_getElem hi

theorem immJOf_encJ {imm : Word} (rd : Reg) (op : BitVec 7) (h : immJump imm = true) :
    immJOf (encJ imm rd op) = imm := by
  obtain ⟨hi, h0⟩ : imm = (imm.setWidth 21).signExtend 32 ∧ imm[0] = false := by simpa [immJump] using h
  have e : (place ((encJ imm rd op).extractLsb' 31 1) 20 ||| place ((encJ imm rd op).extractLsb' 12 8) 12
      ||| place ((encJ imm rd op).extractLsb' 20 1) 11
      ||| place ((encJ imm rd op).extractLsb' 21 10) 1).setWidth 21 = imm.setWidth 21 := by
    unfold encJ place
    ext i hi
    interval_cases i <;> simp [h0]
  rw [immJOf, e]
  exact hi.symm

/-! ### Masks and fields: a row of the tables is its fields -/

theorem opcodeOf_and (w m : Word) : opcodeOf (w &&& m) = opcodeOf w &&& opcodeOf m := by
  unfold opcodeOf
  ext i hi
  simp

theorem funct3Of_and (w m : Word) : funct3Of (w &&& m) = funct3Of w &&& funct3Of m := by
  unfold funct3Of
  ext i hi
  simp

theorem funct7Of_and (w m : Word) : funct7Of (w &&& m) = funct7Of w &&& funct7Of m := by
  unfold funct7Of
  ext i hi
  simp

theorem funct5Of_and (w m : Word) : funct5Of (w &&& m) = funct5Of w &&& funct5Of m := by
  unfold funct5Of
  ext i hi
  simp

theorem rs2Of_and (w m : Word) : rs2Of (w &&& m) = rs2Of w &&& rs2Of m := by
  unfold rs2Of
  ext i hi
  simp

theorem and_mask_opcode (w : Word) : w &&& 0x0000007F#32 = place (opcodeOf w) 0 := by
  unfold place opcodeOf
  ext i hi
  interval_cases i <;> simp

theorem and_mask_funct3 (w : Word) : w &&& 0x0000707F#32 = place (funct3Of w) 12 ||| place (opcodeOf w) 0 := by
  unfold place funct3Of opcodeOf
  ext i hi
  interval_cases i <;> simp

theorem and_mask_funct7 (w : Word) : w &&& 0xFE00707F#32 = place (funct7Of w) 25 ||| place (funct3Of w) 12 ||| place (opcodeOf w) 0 := by
  unfold place funct7Of funct3Of opcodeOf
  ext i hi
  interval_cases i <;> simp

theorem and_mask_funct5 (w : Word) : w &&& 0xF800707F#32 = place (funct5Of w) 27 ||| place (funct3Of w) 12 ||| place (opcodeOf w) 0 := by
  unfold place funct5Of funct3Of opcodeOf
  ext i hi
  interval_cases i <;> simp

theorem and_mask_lr (w : Word) : w &&& 0xF9F0707F#32 = place (funct5Of w) 27 ||| place (rs2Of w) 20 ||| place (funct3Of w) 12 ||| place (opcodeOf w) 0 := by
  unfold place funct5Of rs2Of funct3Of opcodeOf
  ext i hi
  interval_cases i <;> simp

/-! ### The record of a decoded word stands for the instruction the decoder reads (R72, R80) -/

/-- Whatever instruction a decoder's answer on a word holds is the one the word's record stands for. -/
def RecordFits (w : Word) (r : Except Reject Instr) : Prop := ∀ i, r = .ok i → (recordOf w i.kind i.imm).instr = some i

theorem recordFits_ok {w : Word} {i : Instr} (h : (recordOf w i.kind i.imm).instr = some i) : RecordFits w (.ok i) := by
  intro j hj
  cases hj
  exact h

theorem recordFits_error (w : Word) (r : Reject) : RecordFits w (.error r) := nofun

theorem recordFits_ite {w : Word} {c : Prop} [Decidable c] {x y : Except Reject Instr} (hx : RecordFits w x)
    (hy : RecordFits w y) : RecordFits w (if c then x else y) := by
  by_cases h : c
  · rwa [if_pos h]
  · rwa [if_neg h]

theorem recordFits_decodeBranch (w : Word) : RecordFits w (decodeBranch w) := by
  unfold decodeBranch
  repeat' first
    | with_reducible exact recordFits_error _ _
    | with_reducible apply recordFits_ite
  all_goals exact recordFits_ok rfl

theorem recordFits_decodeLoad (w : Word) : RecordFits w (decodeLoad w) := by
  unfold decodeLoad
  repeat' first
    | with_reducible exact recordFits_error _ _
    | with_reducible apply recordFits_ite
  all_goals exact recordFits_ok rfl

theorem recordFits_decodeStore (w : Word) : RecordFits w (decodeStore w) := by
  unfold decodeStore
  repeat' first
    | with_reducible exact recordFits_error _ _
    | with_reducible apply recordFits_ite
  all_goals exact recordFits_ok rfl

theorem recordFits_decodeOpImm (w : Word) : RecordFits w (decodeOpImm w) := by
  unfold decodeOpImm
  repeat' first
    | with_reducible exact recordFits_error _ _
    | with_reducible apply recordFits_ite
  all_goals exact recordFits_ok rfl

theorem recordFits_decodeOp (w : Word) : RecordFits w (decodeOp w) := by
  unfold decodeOp
  repeat' first
    | with_reducible exact recordFits_error _ _
    | with_reducible apply recordFits_ite
  all_goals exact recordFits_ok rfl

theorem recordFits_decodeMiscMem (w : Word) : RecordFits w (decodeMiscMem w) := by
  unfold decodeMiscMem
  repeat' first
    | with_reducible exact recordFits_error _ _
    | with_reducible apply recordFits_ite
  all_goals exact recordFits_ok rfl

theorem recordFits_decodeSystem (w : Word) : RecordFits w (decodeSystem w) := by
  unfold decodeSystem
  repeat' first
    | with_reducible exact recordFits_error _ _
    | with_reducible apply recordFits_ite
  all_goals exact recordFits_ok rfl

theorem recordFits_decodeAmo (w : Word) : RecordFits w (decodeAmo w) := by
  unfold decodeAmo
  repeat' first
    | with_reducible exact recordFits_error _ _
    | with_reducible apply recordFits_ite
  all_goals exact recordFits_ok rfl

/-- The decoder's answer fits the record. -/
theorem recordFits_decodeFull (w : Word) : RecordFits w (decodeFull w) := by
  unfold decodeFull
  repeat' first
    | with_reducible exact recordFits_error _ _
    | with_reducible apply recordFits_ite
  all_goals first
    | with_reducible exact recordFits_decodeBranch w | with_reducible exact recordFits_decodeLoad w
    | with_reducible exact recordFits_decodeStore w | with_reducible exact recordFits_decodeOpImm w
    | with_reducible exact recordFits_decodeOp w | with_reducible exact recordFits_decodeMiscMem w
    | with_reducible exact recordFits_decodeSystem w | with_reducible exact recordFits_decodeAmo w
    | exact recordFits_ok rfl

end Sys2Proof
end

