-- ==== Sys2Proof/Laws/Memory.lean ====
section
/-! SUPPORT. The laws of memory: a byte reads back as written, a write leaves every other byte alone, and every memory
operation keeps the canonical form (20_memory.md rules R43, R44 and R48). -/

namespace Sys2Proof.Machine

/-! ### One byte -/

theorem Memory.read_erase_same (m : Memory) (a : Nat) : Memory.read (Memory.erase m a) a = Config.unwrittenByte := by
  induction m with
  | nil => rfl
  | cons c m ih =>
    by_cases h : c.1 = a
    · simpa [Memory.erase, h] using ih
    · simpa [Memory.erase, Memory.read, h] using ih

theorem Memory.read_erase_ne (m : Memory) {a b : Nat} (h : b ≠ a) :
    Memory.read (Memory.erase m a) b = Memory.read m b := by
  induction m with
  | nil => rfl
  | cons c m ih =>
    by_cases hc : c.1 = a
    · have hb : ¬a = b := fun e => h e.symm
      have e : Memory.erase (c :: m) a = Memory.erase m a := by simp [Memory.erase, hc]
      rw [e, ih, Memory.read, hc, if_neg hb]
    · have e : Memory.erase (c :: m) a = c :: Memory.erase m a := by simp [Memory.erase, hc]
      rw [e, Memory.read, Memory.read, ih]

theorem Memory.read_insert_same (m : Memory) (a : Nat) (v : Byte) (h : ∀ c ∈ m, c.1 ≠ a) :
    Memory.read (Memory.insert m a v) a = v := by
  induction m with
  | nil => simp [Memory.insert, Memory.read]
  | cons c m ih =>
    have hc : c.1 ≠ a := h c (by simp)
    have hm := ih fun d hd => h d (by simp [hd])
    unfold Memory.insert
    split
    · simpa [Memory.read, hc] using hm
    · simp [Memory.read]

theorem Memory.read_insert_ne (m : Memory) {a b : Nat} (v : Byte) (h : b ≠ a) :
    Memory.read (Memory.insert m a v) b = Memory.read m b := by
  have ha : ¬a = b := fun e => h e.symm
  induction m with
  | nil => simp [Memory.insert, Memory.read, ha]
  | cons c m ih =>
    unfold Memory.insert
    split
    · rw [Memory.read, Memory.read, ih]
    · rw [Memory.read, if_neg ha]

theorem Memory.erase_ne {m : Memory} {a : Nat} : ∀ c ∈ Memory.erase m a, c.1 ≠ a := by
  intro c hc
  simpa using (List.mem_filter.mp hc).2

/-- A written byte reads as written. -/
@[simp] theorem Memory.read_write_same (m : Memory) (a : Nat) (v : Byte) : Memory.read (Memory.write m a v) a = v := by
  unfold Memory.write
  split
  · next h => rw [Memory.read_erase_same, h]
  · exact Memory.read_insert_same _ _ _ Memory.erase_ne

/-- Every other byte reads as before. -/
theorem Memory.read_write_ne (m : Memory) {a b : Nat} (v : Byte) (h : b ≠ a) :
    Memory.read (Memory.write m a v) b = Memory.read m b := by
  unfold Memory.write
  split
  · exact Memory.read_erase_ne m h
  · rw [Memory.read_insert_ne _ _ h, Memory.read_erase_ne m h]

/-! ### The canonical form -/

theorem Memory.erase_wf {m : Memory} (a : Nat) (h : Memory.wf m) : Memory.wf (Memory.erase m a) :=
  ⟨h.1.filter _, fun c hc => h.2 c (List.mem_of_mem_filter hc)⟩

theorem Memory.mem_insert {m : Memory} {a : Nat} {v : Byte} {c : Host.Cell} (h : c ∈ Memory.insert m a v) :
    c = (a, v) ∨ c ∈ m := by
  induction m with
  | nil => simpa [Memory.insert] using h
  | cons d m ih =>
    unfold Memory.insert at h
    split at h
    · rcases List.mem_cons.mp h with rfl | h
      · simp
      · rcases ih h with h | h <;> simp [h]
    · rcases List.mem_cons.mp h with h | h <;> simp [h]

theorem Memory.insert_rising {m : Memory} {a : Nat} {v : Byte} (h : m.Pairwise (fun c d => c.1 < d.1))
    (hn : ∀ c ∈ m, c.1 ≠ a) : (Memory.insert m a v).Pairwise (fun c d => c.1 < d.1) := by
  induction m with
  | nil => simp [Memory.insert]
  | cons d m ih =>
    obtain ⟨hd, hm⟩ := List.pairwise_cons.mp h
    have hna : ∀ c ∈ m, c.1 ≠ a := fun c hc => hn c (by simp [hc])
    unfold Memory.insert
    split
    · next hlt =>
      refine List.pairwise_cons.mpr ⟨fun c hc => ?_, ih hm hna⟩
      rcases Memory.mem_insert hc with rfl | hc
      · exact hlt
      · exact hd c hc
    · next hge =>
      have hda : d.1 ≠ a := hn d (by simp)
      have hlt : a < d.1 := by omega
      refine List.pairwise_cons.mpr ⟨fun c hc => ?_, h⟩
      rcases List.mem_cons.mp hc with rfl | hc
      · exact hlt
      · exact Nat.lt_trans hlt (hd c hc)

/-- A byte write keeps the canonical form. -/
theorem Memory.write_wf {m : Memory} {a : Nat} (v : Byte) (ha : a < 2 ^ 32) (h : Memory.wf m) :
    Memory.wf (Memory.write m a v) := by
  have he := Memory.erase_wf a h
  unfold Memory.write
  split
  · exact he
  · next hv =>
    refine ⟨Memory.insert_rising he.1 Memory.erase_ne, fun c hc => ?_⟩
    rcases Memory.mem_insert hc with rfl | hc
    · exact ⟨ha, hv⟩
    · exact he.2 c hc

/-! ### Several bytes -/

/-- A write of n bytes leaves every byte outside them alone. -/
theorem Memory.read_writeLE_outside (m : Memory) (a n : Nat) (v : Word) {b : Nat} (h : b < a ∨ a + n ≤ b) :
    Memory.read (Memory.writeLE m a n v) b = Memory.read m b := by
  induction n generalizing m a v with
  | zero => rfl
  | succ n ih => rw [Memory.writeLE, ih _ _ _ (by omega), Memory.read_write_ne _ _ (by omega)]

/-- Byte i of a write of n bytes is bits 8i+7 to 8i of the value (R44, R48). -/
theorem Memory.read_writeLE_inside (m : Memory) (a n : Nat) (v : Word) {i : Nat} (h : i < n) :
    Memory.read (Memory.writeLE m a n v) (a + i) = (v >>> (8 * i)).setWidth 8 := by
  induction n generalizing m a v i with
  | zero => omega
  | succ n ih =>
    rw [Memory.writeLE]
    cases i with
    | zero => rw [Memory.read_writeLE_outside _ _ _ _ (by omega)]; simp
    | succ i =>
      have hi : i < n := by omega
      have e : a + (i + 1) = a + 1 + i := by omega
      rw [e, ih _ _ _ hi, BitVec.shiftRight_add v 8 (8 * i) |>.symm]
      congr 2
      omega

/-- A write of n bytes keeps the canonical form. -/
theorem Memory.writeLE_wf {m : Memory} {a n : Nat} (v : Word) (ha : a + n ≤ 2 ^ 32) (h : Memory.wf m) :
    Memory.wf (Memory.writeLE m a n v) := by
  induction n generalizing m a v with
  | zero => exact h
  | succ n ih => exact ih _ (by omega) (Memory.write_wf _ (by omega) h)

/-- Memories that agree on n bytes read the same n-byte value. -/
theorem Memory.readLE_congr {m m' : Memory} {a n : Nat}
    (h : ∀ i, i < n → Memory.read m' (a + i) = Memory.read m (a + i)) :
    Memory.readLE m' a n = Memory.readLE m a n := by
  induction n generalizing a with
  | zero => rfl
  | succ n ih =>
    have h0 := h 0 (by omega)
    have hs := ih (a := a + 1) fun i hi => by
      have := h (i + 1) (by omega)
      rwa [show a + (i + 1) = a + 1 + i by omega] at this
    rw [Memory.readLE, Memory.readLE, hs, show Memory.read m' a = Memory.read m a from h0]

/-- An n-byte read outside the n' bytes written gives what it gave before. -/
theorem Memory.readLE_writeLE_outside (m : Memory) (a n b n' : Nat) (v : Word) (h : a + n ≤ b ∨ b + n' ≤ a) :
    Memory.readLE (Memory.writeLE m b n' v) a n = Memory.readLE m a n :=
  Memory.readLE_congr fun i hi => Memory.read_writeLE_outside _ _ _ _ (by omega)

/-- A word reads back as it was written (R48). -/
theorem Memory.readLE_writeLE_word (m : Memory) (a : Nat) (v : Word) :
    Memory.readLE (Memory.writeLE m a 4 v) a 4 = v := by
  have h : ∀ i, i < 4 → Memory.read (Memory.writeLE m a 4 v) (a + i) = (v >>> (8 * i)).setWidth 8 :=
    fun i hi => Memory.read_writeLE_inside m a 4 v hi
  have h0 := h 0 (by omega)
  have h1 := h 1 (by omega)
  have h2 := h 2 (by omega)
  have h3 := h 3 (by omega)
  simp only [Nat.add_zero] at h0
  simp only [Memory.readLE, Nat.add_assoc, Nat.reduceAdd, h0, h1, h2, h3]
  ext i hi
  interval_cases i <;> simp

end Sys2Proof.Machine
end

