-- ==== Sys2Proof/Laws/State.lean ====
section
/-! SUPPORT. One lemma per field of the state per update, so that no later proof unfolds a record update, and the laws of
reading and writing registers (10_state.md rule R21). -/

namespace Sys2Proof.Machine

/-! ### `State.setReg` -/

@[simp] theorem State.setReg_cfg (s : State) (r : Reg) (v : Word) : (s.setReg r v).cfg = s.cfg := rfl
@[simp] theorem State.setReg_mem (s : State) (r : Reg) (v : Word) : (s.setReg r v).mem = s.mem := rfl
@[simp] theorem State.setReg_below (s : State) (r : Reg) (v : Word) : (s.setReg r v).below = s.below := rfl
@[simp] theorem State.setReg_above (s : State) (r : Reg) (v : Word) : (s.setReg r v).above = s.above := rfl
@[simp] theorem State.setReg_inputs (s : State) (r : Reg) (v : Word) : (s.setReg r v).inputs = s.inputs := rfl
@[simp] theorem State.setReg_tick (s : State) (r : Reg) (v : Word) : (s.setReg r v).tick = s.tick := rfl
@[simp] theorem State.setReg_hart_pc (s : State) (r : Reg) (v : Word) : (s.setReg r v).hart.pc = s.hart.pc := rfl
@[simp] theorem State.setReg_hart_regs (s : State) (r : Reg) (v : Word) : (s.setReg r v).hart.regs = RegFile.write s.hart.regs r v := rfl
@[simp] theorem State.setReg_hart_resv (s : State) (r : Reg) (v : Word) : (s.setReg r v).hart.resv = s.hart.resv := rfl
@[simp] theorem State.setReg_hart_defect (s : State) (r : Reg) (v : Word) : (s.setReg r v).hart.defect = s.hart.defect := rfl
@[simp] theorem State.setReg_hart_csrs (s : State) (r : Reg) (v : Word) : (s.setReg r v).hart.csrs = s.hart.csrs := rfl
@[simp] theorem State.setReg_hart_resetPc (s : State) (r : Reg) (v : Word) : (s.setReg r v).hart.resetPc = s.hart.resetPc := rfl
@[simp] theorem State.setReg_hart_halted (s : State) (r : Reg) (v : Word) : (s.setReg r v).hart.halted = s.hart.halted := rfl
@[simp] theorem State.setReg_hart_outcome (s : State) (r : Reg) (v : Word) : (s.setReg r v).hart.outcome = s.hart.outcome := rfl
@[simp] theorem State.setReg_hart_fetched (s : State) (r : Reg) (v : Word) : (s.setReg r v).hart.fetched = s.hart.fetched := rfl

/-! ### `State.setPc` -/

@[simp] theorem State.setPc_cfg (s : State) (t : Word) : (s.setPc t).cfg = s.cfg := rfl
@[simp] theorem State.setPc_mem (s : State) (t : Word) : (s.setPc t).mem = s.mem := rfl
@[simp] theorem State.setPc_below (s : State) (t : Word) : (s.setPc t).below = s.below := rfl
@[simp] theorem State.setPc_above (s : State) (t : Word) : (s.setPc t).above = s.above := rfl
@[simp] theorem State.setPc_inputs (s : State) (t : Word) : (s.setPc t).inputs = s.inputs := rfl
@[simp] theorem State.setPc_tick (s : State) (t : Word) : (s.setPc t).tick = s.tick := rfl
@[simp] theorem State.setPc_hart_pc (s : State) (t : Word) : (s.setPc t).hart.pc = t := rfl
@[simp] theorem State.setPc_hart_regs (s : State) (t : Word) : (s.setPc t).hart.regs = s.hart.regs := rfl
@[simp] theorem State.setPc_hart_resv (s : State) (t : Word) : (s.setPc t).hart.resv = s.hart.resv := rfl
@[simp] theorem State.setPc_hart_defect (s : State) (t : Word) : (s.setPc t).hart.defect = s.hart.defect := rfl
@[simp] theorem State.setPc_hart_csrs (s : State) (t : Word) : (s.setPc t).hart.csrs = s.hart.csrs := rfl
@[simp] theorem State.setPc_hart_resetPc (s : State) (t : Word) : (s.setPc t).hart.resetPc = s.hart.resetPc := rfl
@[simp] theorem State.setPc_hart_halted (s : State) (t : Word) : (s.setPc t).hart.halted = s.hart.halted := rfl
@[simp] theorem State.setPc_hart_outcome (s : State) (t : Word) : (s.setPc t).hart.outcome = s.hart.outcome := rfl
@[simp] theorem State.setPc_hart_fetched (s : State) (t : Word) : (s.setPc t).hart.fetched = s.hart.fetched := rfl
@[simp] theorem State.setPc_reg (s : State) (t : Word) (q : Reg) : (s.setPc t).reg q = s.reg q := rfl

/-! ### `State.setResv` -/

@[simp] theorem State.setResv_cfg (s : State) (o : Option Reservation) : (s.setResv o).cfg = s.cfg := rfl
@[simp] theorem State.setResv_mem (s : State) (o : Option Reservation) : (s.setResv o).mem = s.mem := rfl
@[simp] theorem State.setResv_below (s : State) (o : Option Reservation) : (s.setResv o).below = s.below := rfl
@[simp] theorem State.setResv_above (s : State) (o : Option Reservation) : (s.setResv o).above = s.above := rfl
@[simp] theorem State.setResv_inputs (s : State) (o : Option Reservation) : (s.setResv o).inputs = s.inputs := rfl
@[simp] theorem State.setResv_tick (s : State) (o : Option Reservation) : (s.setResv o).tick = s.tick := rfl
@[simp] theorem State.setResv_hart_pc (s : State) (o : Option Reservation) : (s.setResv o).hart.pc = s.hart.pc := rfl
@[simp] theorem State.setResv_hart_regs (s : State) (o : Option Reservation) : (s.setResv o).hart.regs = s.hart.regs := rfl
@[simp] theorem State.setResv_hart_resv (s : State) (o : Option Reservation) : (s.setResv o).hart.resv = o := rfl
@[simp] theorem State.setResv_hart_defect (s : State) (o : Option Reservation) : (s.setResv o).hart.defect = s.hart.defect := rfl
@[simp] theorem State.setResv_hart_csrs (s : State) (o : Option Reservation) : (s.setResv o).hart.csrs = s.hart.csrs := rfl
@[simp] theorem State.setResv_hart_resetPc (s : State) (o : Option Reservation) : (s.setResv o).hart.resetPc = s.hart.resetPc := rfl
@[simp] theorem State.setResv_hart_halted (s : State) (o : Option Reservation) : (s.setResv o).hart.halted = s.hart.halted := rfl
@[simp] theorem State.setResv_hart_outcome (s : State) (o : Option Reservation) : (s.setResv o).hart.outcome = s.hart.outcome := rfl
@[simp] theorem State.setResv_hart_fetched (s : State) (o : Option Reservation) : (s.setResv o).hart.fetched = s.hart.fetched := rfl
@[simp] theorem State.setResv_reg (s : State) (o : Option Reservation) (q : Reg) : (s.setResv o).reg q = s.reg q := rfl

/-! ### `State.setOutcome` -/

@[simp] theorem State.setOutcome_cfg (s : State) (o : Option Conclusion) : (s.setOutcome o).cfg = s.cfg := rfl
@[simp] theorem State.setOutcome_mem (s : State) (o : Option Conclusion) : (s.setOutcome o).mem = s.mem := rfl
@[simp] theorem State.setOutcome_below (s : State) (o : Option Conclusion) : (s.setOutcome o).below = s.below := rfl
@[simp] theorem State.setOutcome_above (s : State) (o : Option Conclusion) : (s.setOutcome o).above = s.above := rfl
@[simp] theorem State.setOutcome_inputs (s : State) (o : Option Conclusion) : (s.setOutcome o).inputs = s.inputs := rfl
@[simp] theorem State.setOutcome_tick (s : State) (o : Option Conclusion) : (s.setOutcome o).tick = s.tick := rfl
@[simp] theorem State.setOutcome_hart_pc (s : State) (o : Option Conclusion) : (s.setOutcome o).hart.pc = s.hart.pc := rfl
@[simp] theorem State.setOutcome_hart_regs (s : State) (o : Option Conclusion) : (s.setOutcome o).hart.regs = s.hart.regs := rfl
@[simp] theorem State.setOutcome_hart_resv (s : State) (o : Option Conclusion) : (s.setOutcome o).hart.resv = s.hart.resv := rfl
@[simp] theorem State.setOutcome_hart_defect (s : State) (o : Option Conclusion) : (s.setOutcome o).hart.defect = s.hart.defect := rfl
@[simp] theorem State.setOutcome_hart_csrs (s : State) (o : Option Conclusion) : (s.setOutcome o).hart.csrs = s.hart.csrs := rfl
@[simp] theorem State.setOutcome_hart_resetPc (s : State) (o : Option Conclusion) : (s.setOutcome o).hart.resetPc = s.hart.resetPc := rfl
@[simp] theorem State.setOutcome_hart_halted (s : State) (o : Option Conclusion) : (s.setOutcome o).hart.halted = s.hart.halted := rfl
@[simp] theorem State.setOutcome_hart_outcome (s : State) (o : Option Conclusion) : (s.setOutcome o).hart.outcome = o := rfl
@[simp] theorem State.setOutcome_hart_fetched (s : State) (o : Option Conclusion) : (s.setOutcome o).hart.fetched = s.hart.fetched := rfl
@[simp] theorem State.setOutcome_reg (s : State) (o : Option Conclusion) (q : Reg) : (s.setOutcome o).reg q = s.reg q := rfl

/-! ### `State.setCsrs` -/

@[simp] theorem State.setCsrs_cfg (s : State) (cs : CsrUnit) : (s.setCsrs cs).cfg = s.cfg := rfl
@[simp] theorem State.setCsrs_mem (s : State) (cs : CsrUnit) : (s.setCsrs cs).mem = s.mem := rfl
@[simp] theorem State.setCsrs_below (s : State) (cs : CsrUnit) : (s.setCsrs cs).below = s.below := rfl
@[simp] theorem State.setCsrs_above (s : State) (cs : CsrUnit) : (s.setCsrs cs).above = s.above := rfl
@[simp] theorem State.setCsrs_inputs (s : State) (cs : CsrUnit) : (s.setCsrs cs).inputs = s.inputs := rfl
@[simp] theorem State.setCsrs_tick (s : State) (cs : CsrUnit) : (s.setCsrs cs).tick = s.tick := rfl
@[simp] theorem State.setCsrs_hart_pc (s : State) (cs : CsrUnit) : (s.setCsrs cs).hart.pc = s.hart.pc := rfl
@[simp] theorem State.setCsrs_hart_regs (s : State) (cs : CsrUnit) : (s.setCsrs cs).hart.regs = s.hart.regs := rfl
@[simp] theorem State.setCsrs_hart_resv (s : State) (cs : CsrUnit) : (s.setCsrs cs).hart.resv = s.hart.resv := rfl
@[simp] theorem State.setCsrs_hart_defect (s : State) (cs : CsrUnit) : (s.setCsrs cs).hart.defect = s.hart.defect := rfl
@[simp] theorem State.setCsrs_hart_csrs (s : State) (cs : CsrUnit) : (s.setCsrs cs).hart.csrs = cs := rfl
@[simp] theorem State.setCsrs_hart_resetPc (s : State) (cs : CsrUnit) : (s.setCsrs cs).hart.resetPc = s.hart.resetPc := rfl
@[simp] theorem State.setCsrs_hart_halted (s : State) (cs : CsrUnit) : (s.setCsrs cs).hart.halted = s.hart.halted := rfl
@[simp] theorem State.setCsrs_hart_outcome (s : State) (cs : CsrUnit) : (s.setCsrs cs).hart.outcome = s.hart.outcome := rfl
@[simp] theorem State.setCsrs_hart_fetched (s : State) (cs : CsrUnit) : (s.setCsrs cs).hart.fetched = s.hart.fetched := rfl
@[simp] theorem State.setCsrs_reg (s : State) (cs : CsrUnit) (q : Reg) : (s.setCsrs cs).reg q = s.reg q := rfl

/-! ### `State.setFetched` -/

@[simp] theorem State.setFetched_cfg (s : State) (o : Option Operation) : (s.setFetched o).cfg = s.cfg := rfl
@[simp] theorem State.setFetched_mem (s : State) (o : Option Operation) : (s.setFetched o).mem = s.mem := rfl
@[simp] theorem State.setFetched_below (s : State) (o : Option Operation) : (s.setFetched o).below = s.below := rfl
@[simp] theorem State.setFetched_above (s : State) (o : Option Operation) : (s.setFetched o).above = s.above := rfl
@[simp] theorem State.setFetched_inputs (s : State) (o : Option Operation) : (s.setFetched o).inputs = s.inputs := rfl
@[simp] theorem State.setFetched_tick (s : State) (o : Option Operation) : (s.setFetched o).tick = s.tick := rfl
@[simp] theorem State.setFetched_hart_pc (s : State) (o : Option Operation) : (s.setFetched o).hart.pc = s.hart.pc := rfl
@[simp] theorem State.setFetched_hart_regs (s : State) (o : Option Operation) : (s.setFetched o).hart.regs = s.hart.regs := rfl
@[simp] theorem State.setFetched_hart_resv (s : State) (o : Option Operation) : (s.setFetched o).hart.resv = s.hart.resv := rfl
@[simp] theorem State.setFetched_hart_defect (s : State) (o : Option Operation) : (s.setFetched o).hart.defect = s.hart.defect := rfl
@[simp] theorem State.setFetched_hart_csrs (s : State) (o : Option Operation) : (s.setFetched o).hart.csrs = s.hart.csrs := rfl
@[simp] theorem State.setFetched_hart_resetPc (s : State) (o : Option Operation) : (s.setFetched o).hart.resetPc = s.hart.resetPc := rfl
@[simp] theorem State.setFetched_hart_halted (s : State) (o : Option Operation) : (s.setFetched o).hart.halted = s.hart.halted := rfl
@[simp] theorem State.setFetched_hart_outcome (s : State) (o : Option Operation) : (s.setFetched o).hart.outcome = s.hart.outcome := rfl
@[simp] theorem State.setFetched_hart_fetched (s : State) (o : Option Operation) : (s.setFetched o).hart.fetched = o := rfl
@[simp] theorem State.setFetched_reg (s : State) (o : Option Operation) (q : Reg) : (s.setFetched o).reg q = s.reg q := rfl

/-! ### `State.takeTrap` -/

@[simp] theorem State.takeTrap_cfg (s : State) (c : Cause) (v : Word) : (s.takeTrap c v).cfg = s.cfg := rfl
@[simp] theorem State.takeTrap_mem (s : State) (c : Cause) (v : Word) : (s.takeTrap c v).mem = s.mem := rfl
@[simp] theorem State.takeTrap_below (s : State) (c : Cause) (v : Word) : (s.takeTrap c v).below = s.below := rfl
@[simp] theorem State.takeTrap_above (s : State) (c : Cause) (v : Word) : (s.takeTrap c v).above = s.above := rfl
@[simp] theorem State.takeTrap_inputs (s : State) (c : Cause) (v : Word) : (s.takeTrap c v).inputs = s.inputs := rfl
@[simp] theorem State.takeTrap_tick (s : State) (c : Cause) (v : Word) : (s.takeTrap c v).tick = s.tick := rfl
@[simp] theorem State.takeTrap_hart_pc (s : State) (c : Cause) (v : Word) : (s.takeTrap c v).hart.pc = s.hart.pc := rfl
@[simp] theorem State.takeTrap_hart_regs (s : State) (c : Cause) (v : Word) : (s.takeTrap c v).hart.regs = s.hart.regs := rfl
@[simp] theorem State.takeTrap_hart_resv (s : State) (c : Cause) (v : Word) : (s.takeTrap c v).hart.resv = none := rfl
@[simp] theorem State.takeTrap_hart_defect (s : State) (c : Cause) (v : Word) : (s.takeTrap c v).hart.defect = s.hart.defect := rfl
@[simp] theorem State.takeTrap_hart_csrs (s : State) (c : Cause) (v : Word) : (s.takeTrap c v).hart.csrs = s.hart.csrs := rfl
@[simp] theorem State.takeTrap_hart_resetPc (s : State) (c : Cause) (v : Word) : (s.takeTrap c v).hart.resetPc = s.hart.resetPc := rfl
@[simp] theorem State.takeTrap_hart_halted (s : State) (c : Cause) (v : Word) : (s.takeTrap c v).hart.halted = s.hart.halted := rfl
@[simp] theorem State.takeTrap_hart_outcome (s : State) (c : Cause) (v : Word) : (s.takeTrap c v).hart.outcome = some (.trapped c v) := rfl
@[simp] theorem State.takeTrap_hart_fetched (s : State) (c : Cause) (v : Word) : (s.takeTrap c v).hart.fetched = s.hart.fetched := rfl
@[simp] theorem State.takeTrap_reg (s : State) (c : Cause) (v : Word) (q : Reg) : (s.takeTrap c v).reg q = s.reg q := rfl

/-! ### `State.raiseDefect` -/

@[simp] theorem State.raiseDefect_cfg (s : State) : (s.raiseDefect).cfg = s.cfg := rfl
@[simp] theorem State.raiseDefect_mem (s : State) : (s.raiseDefect).mem = s.mem := rfl
@[simp] theorem State.raiseDefect_below (s : State) : (s.raiseDefect).below = s.below := rfl
@[simp] theorem State.raiseDefect_above (s : State) : (s.raiseDefect).above = s.above := rfl
@[simp] theorem State.raiseDefect_inputs (s : State) : (s.raiseDefect).inputs = s.inputs := rfl
@[simp] theorem State.raiseDefect_tick (s : State) : (s.raiseDefect).tick = s.tick := rfl
@[simp] theorem State.raiseDefect_hart_pc (s : State) : (s.raiseDefect).hart.pc = s.hart.pc := rfl
@[simp] theorem State.raiseDefect_hart_regs (s : State) : (s.raiseDefect).hart.regs = s.hart.regs := rfl
@[simp] theorem State.raiseDefect_hart_resv (s : State) : (s.raiseDefect).hart.resv = s.hart.resv := rfl
@[simp] theorem State.raiseDefect_hart_defect (s : State) : (s.raiseDefect).hart.defect = true := rfl
@[simp] theorem State.raiseDefect_hart_csrs (s : State) : (s.raiseDefect).hart.csrs = s.hart.csrs := rfl
@[simp] theorem State.raiseDefect_hart_resetPc (s : State) : (s.raiseDefect).hart.resetPc = s.hart.resetPc := rfl
@[simp] theorem State.raiseDefect_hart_halted (s : State) : (s.raiseDefect).hart.halted = s.hart.halted := rfl
@[simp] theorem State.raiseDefect_hart_outcome (s : State) : (s.raiseDefect).hart.outcome = none := rfl
@[simp] theorem State.raiseDefect_hart_fetched (s : State) : (s.raiseDefect).hart.fetched = s.hart.fetched := rfl
@[simp] theorem State.raiseDefect_reg (s : State) (q : Reg) : (s.raiseDefect).reg q = s.reg q := rfl

/-! ### `State.resumeAt` -/

@[simp] theorem State.resumeAt_cfg (s : State) (t : Word) : (s.resumeAt t).cfg = s.cfg := rfl
@[simp] theorem State.resumeAt_mem (s : State) (t : Word) : (s.resumeAt t).mem = s.mem := rfl
@[simp] theorem State.resumeAt_below (s : State) (t : Word) : (s.resumeAt t).below = s.below := rfl
@[simp] theorem State.resumeAt_above (s : State) (t : Word) : (s.resumeAt t).above = s.above := rfl
@[simp] theorem State.resumeAt_inputs (s : State) (t : Word) : (s.resumeAt t).inputs = s.inputs := rfl
@[simp] theorem State.resumeAt_tick (s : State) (t : Word) : (s.resumeAt t).tick = s.tick := rfl
@[simp] theorem State.resumeAt_hart_pc (s : State) (t : Word) : (s.resumeAt t).hart.pc = t := rfl
@[simp] theorem State.resumeAt_hart_regs (s : State) (t : Word) : (s.resumeAt t).hart.regs = s.hart.regs := rfl
@[simp] theorem State.resumeAt_hart_resv (s : State) (t : Word) : (s.resumeAt t).hart.resv = s.hart.resv := rfl
@[simp] theorem State.resumeAt_hart_defect (s : State) (t : Word) : (s.resumeAt t).hart.defect = s.hart.defect := rfl
@[simp] theorem State.resumeAt_hart_csrs (s : State) (t : Word) : (s.resumeAt t).hart.csrs = s.hart.csrs := rfl
@[simp] theorem State.resumeAt_hart_resetPc (s : State) (t : Word) : (s.resumeAt t).hart.resetPc = s.hart.resetPc := rfl
@[simp] theorem State.resumeAt_hart_halted (s : State) (t : Word) : (s.resumeAt t).hart.halted = none := rfl
@[simp] theorem State.resumeAt_hart_outcome (s : State) (t : Word) : (s.resumeAt t).hart.outcome = s.hart.outcome := rfl
@[simp] theorem State.resumeAt_hart_fetched (s : State) (t : Word) : (s.resumeAt t).hart.fetched = s.hart.fetched := rfl
@[simp] theorem State.resumeAt_reg (s : State) (t : Word) (q : Reg) : (s.resumeAt t).reg q = s.reg q := rfl

/-! ### `State.mapHarts` and `State.begin` -/

@[simp] theorem State.mapHarts_cfg (s : State) (g : Hart → Hart) : (s.mapHarts g).cfg = s.cfg := rfl
@[simp] theorem State.mapHarts_mem (s : State) (g : Hart → Hart) : (s.mapHarts g).mem = s.mem := rfl
@[simp] theorem State.mapHarts_inputs (s : State) (g : Hart → Hart) : (s.mapHarts g).inputs = s.inputs := rfl
@[simp] theorem State.mapHarts_tick (s : State) (g : Hart → Hart) : (s.mapHarts g).tick = s.tick := rfl
@[simp] theorem State.mapHarts_below (s : State) (g : Hart → Hart) : (s.mapHarts g).below = s.below.map g := rfl
@[simp] theorem State.mapHarts_above (s : State) (g : Hart → Hart) : (s.mapHarts g).above = s.above.map g := rfl
@[simp] theorem State.mapHarts_hart (s : State) (g : Hart → Hart) : (s.mapHarts g).hart = g s.hart := rfl
@[simp] theorem State.begin_cfg (s : State) : s.begin.cfg = s.cfg := rfl
@[simp] theorem State.begin_mem (s : State) : s.begin.mem = s.mem := rfl
@[simp] theorem State.begin_below (s : State) : s.begin.below = s.below := rfl
@[simp] theorem State.begin_hart (s : State) : s.begin.hart = s.hart := rfl
@[simp] theorem State.begin_above (s : State) : s.begin.above = s.above := rfl
@[simp] theorem State.begin_tick (s : State) : s.begin.tick = s.tick + 1 := rfl
@[simp] theorem State.begin_inputs (s : State) : s.begin.inputs = s.inputs.tail := rfl

/-- The harts of the system are kept in order by the same change on every hart. -/
theorem State.harts_mapHarts (s : State) (g : Hart → Hart) : (s.mapHarts g).harts = s.harts.map g := by
  simp [State.harts]

/-! ### The CSR unit's operations change nothing but the unit (R29, R201) -/

@[simp] theorem csrWrite_cfg (s : State) (addr : CsrAddr) (v : Word) : (csrWrite s addr v).cfg = s.cfg := by unfold csrWrite; split <;> rfl
@[simp] theorem csrWrite_mem (s : State) (addr : CsrAddr) (v : Word) : (csrWrite s addr v).mem = s.mem := by unfold csrWrite; split <;> rfl
@[simp] theorem csrWrite_below (s : State) (addr : CsrAddr) (v : Word) : (csrWrite s addr v).below = s.below := by unfold csrWrite; split <;> rfl
@[simp] theorem csrWrite_above (s : State) (addr : CsrAddr) (v : Word) : (csrWrite s addr v).above = s.above := by unfold csrWrite; split <;> rfl
@[simp] theorem csrWrite_inputs (s : State) (addr : CsrAddr) (v : Word) : (csrWrite s addr v).inputs = s.inputs := by unfold csrWrite; split <;> rfl
@[simp] theorem csrWrite_tick (s : State) (addr : CsrAddr) (v : Word) : (csrWrite s addr v).tick = s.tick := by unfold csrWrite; split <;> rfl
@[simp] theorem csrWrite_hart_pc (s : State) (addr : CsrAddr) (v : Word) : (csrWrite s addr v).hart.pc = s.hart.pc := by
  unfold csrWrite; split <;> rfl
@[simp] theorem csrWrite_hart_regs (s : State) (addr : CsrAddr) (v : Word) : (csrWrite s addr v).hart.regs = s.hart.regs := by
  unfold csrWrite; split <;> rfl
@[simp] theorem csrWrite_hart_resv (s : State) (addr : CsrAddr) (v : Word) : (csrWrite s addr v).hart.resv = s.hart.resv := by
  unfold csrWrite; split <;> rfl
@[simp] theorem csrWrite_hart_defect (s : State) (addr : CsrAddr) (v : Word) : (csrWrite s addr v).hart.defect = s.hart.defect := by
  unfold csrWrite; split <;> rfl
@[simp] theorem csrWrite_hart_resetPc (s : State) (addr : CsrAddr) (v : Word) : (csrWrite s addr v).hart.resetPc = s.hart.resetPc := by
  unfold csrWrite; split <;> rfl
@[simp] theorem csrWrite_hart_halted (s : State) (addr : CsrAddr) (v : Word) : (csrWrite s addr v).hart.halted = s.hart.halted := by
  unfold csrWrite; split <;> rfl
@[simp] theorem csrWrite_hart_outcome (s : State) (addr : CsrAddr) (v : Word) : (csrWrite s addr v).hart.outcome = s.hart.outcome := by
  unfold csrWrite; split <;> rfl
@[simp] theorem csrWrite_hart_fetched (s : State) (addr : CsrAddr) (v : Word) : (csrWrite s addr v).hart.fetched = s.hart.fetched := by
  unfold csrWrite; split <;> rfl
@[simp] theorem csrWrite_reg (s : State) (addr : CsrAddr) (v : Word) (q : Reg) : (csrWrite s addr v).reg q = s.reg q := by unfold csrWrite; split <;> rfl
@[simp] theorem csrAfterRead_cfg (s : State) (addr : CsrAddr) : (csrAfterRead s addr).cfg = s.cfg := by unfold csrAfterRead; split <;> rfl
@[simp] theorem csrAfterRead_mem (s : State) (addr : CsrAddr) : (csrAfterRead s addr).mem = s.mem := by unfold csrAfterRead; split <;> rfl
@[simp] theorem csrAfterRead_below (s : State) (addr : CsrAddr) : (csrAfterRead s addr).below = s.below := by unfold csrAfterRead; split <;> rfl
@[simp] theorem csrAfterRead_above (s : State) (addr : CsrAddr) : (csrAfterRead s addr).above = s.above := by unfold csrAfterRead; split <;> rfl
@[simp] theorem csrAfterRead_inputs (s : State) (addr : CsrAddr) : (csrAfterRead s addr).inputs = s.inputs := by unfold csrAfterRead; split <;> rfl
@[simp] theorem csrAfterRead_tick (s : State) (addr : CsrAddr) : (csrAfterRead s addr).tick = s.tick := by unfold csrAfterRead; split <;> rfl
@[simp] theorem csrAfterRead_hart_pc (s : State) (addr : CsrAddr) : (csrAfterRead s addr).hart.pc = s.hart.pc := by
  unfold csrAfterRead; split <;> rfl
@[simp] theorem csrAfterRead_hart_regs (s : State) (addr : CsrAddr) : (csrAfterRead s addr).hart.regs = s.hart.regs := by
  unfold csrAfterRead; split <;> rfl
@[simp] theorem csrAfterRead_hart_resv (s : State) (addr : CsrAddr) : (csrAfterRead s addr).hart.resv = s.hart.resv := by
  unfold csrAfterRead; split <;> rfl
@[simp] theorem csrAfterRead_hart_defect (s : State) (addr : CsrAddr) : (csrAfterRead s addr).hart.defect = s.hart.defect := by
  unfold csrAfterRead; split <;> rfl
@[simp] theorem csrAfterRead_hart_resetPc (s : State) (addr : CsrAddr) : (csrAfterRead s addr).hart.resetPc = s.hart.resetPc := by
  unfold csrAfterRead; split <;> rfl
@[simp] theorem csrAfterRead_hart_halted (s : State) (addr : CsrAddr) : (csrAfterRead s addr).hart.halted = s.hart.halted := by
  unfold csrAfterRead; split <;> rfl
@[simp] theorem csrAfterRead_hart_outcome (s : State) (addr : CsrAddr) : (csrAfterRead s addr).hart.outcome = s.hart.outcome := by
  unfold csrAfterRead; split <;> rfl
@[simp] theorem csrAfterRead_hart_fetched (s : State) (addr : CsrAddr) : (csrAfterRead s addr).hart.fetched = s.hart.fetched := by
  unfold csrAfterRead; split <;> rfl
@[simp] theorem csrAfterRead_reg (s : State) (addr : CsrAddr) (q : Reg) : (csrAfterRead s addr).reg q = s.reg q := by unfold csrAfterRead; split <;> rfl

/-- A read of a table changes nothing. -/
theorem csrAfterRead_table {s : State} {cs : List Csr} (h : s.hart.csrs = .table cs) (addr : CsrAddr) :
    csrAfterRead s addr = s := by simp [csrAfterRead, h]

/-- A write of a table is `csrPut`. -/
theorem csrWrite_table {s : State} {cs : List Csr} (h : s.hart.csrs = .table cs) (addr : CsrAddr) (v : Word) :
    csrWrite s addr v = s.setCsrs (.table (csrPut cs addr v)) := by simp [csrWrite, h]

/-! ### Registers -/

/-- x0 reads 0. -/
@[simp] theorem RegFile.read_zero (f : RegFile) : RegFile.read f 0 = 0 := rfl

/-- x0 reads 0 in every state. -/
@[simp] theorem State.reg_zero (s : State) : s.reg 0 = 0 := rfl

/-- A write to x0 is discarded. -/
@[simp] theorem RegFile.write_zero (f : RegFile) (v : Word) : RegFile.write f 0 v = f := rfl

theorem reg_toNat_ne_zero {r : Reg} (h : r ≠ 0) : r.toNat ≠ 0 := fun e => h (BitVec.eq_of_toNat_eq (by simpa using e))

/-- A written register reads as written. -/
theorem RegFile.read_write_same (f : RegFile) {r : Reg} (v : Word) (h : r ≠ 0) :
    RegFile.read (RegFile.write f r v) r = v := by
  have h0 := reg_toNat_ne_zero h
  simp [RegFile.read, RegFile.write, h0]

/-- The other registers keep their values. -/
theorem RegFile.read_write_ne (f : RegFile) {r q : Reg} (v : Word) (h : q ≠ r) :
    RegFile.read (RegFile.write f r v) q = RegFile.read f q := by
  have hn : q.toNat ≠ r.toNat := fun e => h (BitVec.eq_of_toNat_eq e)
  by_cases hq : q.toNat = 0
  · simp [RegFile.read, hq]
  · by_cases hr : r.toNat = 0
    · simp [RegFile.write, hr]
    · have hi : r.toNat - 1 ≠ q.toNat - 1 := by omega
      simp [RegFile.read, RegFile.write, hq, hr, Vector.getElem_set_ne, hi]

/-- What the destination reads after a write: the value, or 0 for x0 (R21). -/
theorem State.reg_setReg_same (s : State) (r : Reg) (v : Word) : (s.setReg r v).reg r = if r = 0 then 0 else v := by
  by_cases h : r = 0
  · subst h; rfl
  · rw [if_neg h]; exact RegFile.read_write_same _ _ h

/-- What every other register reads after a write. -/
theorem State.reg_setReg_ne (s : State) {r q : Reg} (v : Word) (h : q ≠ r) : (s.setReg r v).reg q = s.reg q :=
  RegFile.read_write_ne _ _ h

end Sys2Proof.Machine
end

