-- ==== Sys2Proof/Laws/Ops.lean ====
section
/-! SUPPORT. One lemma per shared operation that says everything it can do; proofs cite these and do not unfold the
operations. -/

namespace Sys2Proof.Machine

/-! ### A store's effect on one hart (R44, R45) -/

section
variable (addr n : Nat) (h : Hart)

@[simp] theorem Hart.dropOverlap_pc : (h.dropOverlap addr n).pc = h.pc := by unfold dropOverlap; split <;> (try split) <;> rfl
@[simp] theorem Hart.dropOverlap_regs : (h.dropOverlap addr n).regs = h.regs := by
  unfold dropOverlap; split <;> (try split) <;> rfl
@[simp] theorem Hart.dropOverlap_defect : (h.dropOverlap addr n).defect = h.defect := by
  unfold dropOverlap; split <;> (try split) <;> rfl
@[simp] theorem Hart.dropOverlap_csrs : (h.dropOverlap addr n).csrs = h.csrs := by
  unfold dropOverlap; split <;> (try split) <;> rfl
@[simp] theorem Hart.dropOverlap_resetPc : (h.dropOverlap addr n).resetPc = h.resetPc := by
  unfold dropOverlap; split <;> (try split) <;> rfl
@[simp] theorem Hart.dropOverlap_halted : (h.dropOverlap addr n).halted = h.halted := by
  unfold dropOverlap; split <;> (try split) <;> rfl
@[simp] theorem Hart.dropOverlap_outcome : (h.dropOverlap addr n).outcome = h.outcome := by
  unfold dropOverlap; split <;> (try split) <;> rfl
@[simp] theorem Hart.dropOverlap_fetched : (h.dropOverlap addr n).fetched = h.fetched := by
  unfold dropOverlap; split <;> (try split) <;> rfl

theorem Hart.dropOverlap_resv :
    (h.dropOverlap addr n).resv = h.resv.filter (fun r => !r.overlaps addr n) := by
  unfold dropOverlap
  cases hr : h.resv with
  | none => simp [hr]
  | some r => by_cases ho : r.overlaps addr n = true <;> simp [Option.filter, ho, hr]

end

theorem Reservation.overlaps_iff (r : Reservation) (addr n : Nat) : r.overlaps addr n = true ↔ r.Meets addr n := by
  simp [Reservation.overlaps, Reservation.Meets]

/-- The slot after a store is what rule R45 says. -/
theorem slotAfterStore_dropOverlap (addr n : Nat) (h : Hart) :
    SlotAfterStore addr n h.resv (h.dropOverlap addr n).resv := by
  rw [Hart.dropOverlap_resv]
  refine ⟨fun r hr hm => ?_, fun r hr hm => ?_, fun hr => by simp [hr]⟩
  · simp [hr, (Reservation.overlaps_iff r addr n).mpr hm]
  · have : r.overlaps addr n = false := by
      rw [← Bool.not_eq_true, Reservation.overlaps_iff]
      exact hm
    simp [hr, this]

/-- A hart that sees a store only loses an overlapping reservation. -/
theorem seesStore_dropOverlap (addr n : Nat) (h : Hart) : h.SeesStore addr n (h.dropOverlap addr n) := by
  refine ⟨?_, slotAfterStore_dropOverlap addr n h⟩
  unfold Hart.SameButSlot Hart.dropOverlap
  split <;> (try split) <;> rfl

theorem forall₂_seesStore (addr n : Nat) (hs : List Hart) :
    List.Forall₂ (Hart.SeesStore addr n) hs (hs.map (Hart.dropOverlap addr n)) := by
  induction hs with
  | nil => exact .nil
  | cons h hs ih => exact .cons (seesStore_dropOverlap addr n h) ih

/-! ### The memory unit -/

/-- The checks pass exactly when the access is aligned and accessible (R47, R49, R52). -/
theorem accessCheck_none_iff (s : State) (addr : Word) (w : Width) (ks : List AccessKind) :
    accessCheck s.cfg addr w ks = none ↔ AccessOk s addr w ks := by
  unfold accessCheck
  constructor
  · intro h
    split at h
    · cases h
    · next ha =>
      split at h
      · next hs => exact ⟨by simpa using ha, by simpa using hs⟩
      · cases h
  · intro h
    rw [if_neg (by simpa using h.aligned), if_pos (by simpa using h.served)]

/-- A misaligned access is reported as such, whether or not it is accessible (R47). -/
theorem accessCheck_misaligned (cfg : Config) {addr : Word} {w : Width} (ks : List AccessKind)
    (h : addr.toNat % w.bytes ≠ 0) : accessCheck cfg addr w ks = some ⟨.misaligned, addr⟩ := if_pos h

/-- An aligned access that is not accessible is an access fault (R52). -/
theorem accessCheck_fault (cfg : Config) {addr : Word} {w : Width} {ks : List AccessKind} {k : AccessKind}
    (h : addr.toNat % w.bytes = 0) (hk : k ∈ ks) (ha : accessible cfg addr w k = false) :
    accessCheck cfg addr w ks = some ⟨.accessFault, addr⟩ := by
  have hall : ¬ (ks.all (accessible cfg addr w)) = true := by
    simp only [List.all_eq_true, not_forall]
    exact ⟨k, hk, by simp [ha]⟩
  rw [accessCheck, if_neg (by simpa using h), if_neg hall]

/-- An aligned access does not wrap past the top of the address space (R49). -/
theorem aligned_no_wrap {addr : Word} {w : Width} (h : addr.toNat % w.bytes = 0) :
    addr.toNat + w.bytes ≤ 2 ^ 32 := by
  have := addr.isLt
  cases w <;> simp [Width.bytes] at h ⊢ <;> omega

/-- Everything `MemRead` can do (R43). -/
theorem memRead_ok {s : State} {addr : Word} {w : Width} (h : AccessOk s addr w [.read]) :
    memRead s addr w = .ok (Memory.readLE s.mem addr.toNat w.bytes) := by
  rw [memRead, (accessCheck_none_iff s addr w _).mpr h]

theorem memRead_cases (s : State) (addr : Word) (w : Width) :
    (∃ f, accessCheck s.cfg addr w [.read] = some f ∧ memRead s addr w = .error f) ∨
    (AccessOk s addr w [.read] ∧ memRead s addr w = .ok (Memory.readLE s.mem addr.toNat w.bytes)) := by
  cases h : accessCheck s.cfg addr w [.read] with
  | some f => exact .inl ⟨f, rfl, by rw [memRead, h]⟩
  | none =>
    have ha := (accessCheck_none_iff s addr w _).mp h
    exact .inr ⟨ha, memRead_ok ha⟩

/-- Everything `MemWrite` can do (R44). -/
theorem memWrite_ok {s : State} {addr : Word} {w : Width} (v : Word) (h : AccessOk s addr w [.write]) :
    memWrite s addr w v = .ok (storeBytes s addr w v) := by
  rw [memWrite, (accessCheck_none_iff s addr w _).mpr h]

theorem memWrite_cases (s : State) (addr : Word) (w : Width) (v : Word) :
    (∃ f, accessCheck s.cfg addr w [.write] = some f ∧ memWrite s addr w v = .error f) ∨
    (AccessOk s addr w [.write] ∧ memWrite s addr w v = .ok (storeBytes s addr w v)) := by
  cases h : accessCheck s.cfg addr w [.write] with
  | some f => exact .inl ⟨f, rfl, by rw [memWrite, h]⟩
  | none =>
    have ha := (accessCheck_none_iff s addr w _).mp h
    exact .inr ⟨ha, memWrite_ok v ha⟩

/-- Everything `MemAmo` can do (R46). -/
theorem memAmo_ok {s : State} {addr : Word} (f : Word → Word → Word) (x : Word)
    (h : AccessOk s addr .word [.read, .write]) :
    memAmo s addr f x =
      .ok (Memory.readLE s.mem addr.toNat 4, storeBytes s addr .word (f (Memory.readLE s.mem addr.toNat 4) x)) := by
  rw [memAmo, (accessCheck_none_iff s addr .word _).mpr h]

theorem memAmo_cases (s : State) (addr : Word) (f : Word → Word → Word) (x : Word) :
    (∃ e, accessCheck s.cfg addr .word [.read, .write] = some e ∧ memAmo s addr f x = .error e) ∨
    (AccessOk s addr .word [.read, .write] ∧ memAmo s addr f x =
      .ok (Memory.readLE s.mem addr.toNat 4, storeBytes s addr .word (f (Memory.readLE s.mem addr.toNat 4) x))) := by
  cases h : accessCheck s.cfg addr .word [.read, .write] with
  | some e => exact .inl ⟨e, rfl, by rw [memAmo, h]⟩
  | none =>
    have ha := (accessCheck_none_iff s addr .word _).mp h
    exact .inr ⟨ha, memAmo_ok f x ha⟩

section
variable (s : State) (addr : Word) (w : Width) (v : Word)

@[simp] theorem storeBytes_cfg : (storeBytes s addr w v).cfg = s.cfg := rfl
@[simp] theorem storeBytes_inputs : (storeBytes s addr w v).inputs = s.inputs := rfl
@[simp] theorem storeBytes_tick : (storeBytes s addr w v).tick = s.tick := rfl
@[simp] theorem storeBytes_mem : (storeBytes s addr w v).mem = Memory.writeLE s.mem addr.toNat w.bytes v := rfl
@[simp] theorem storeBytes_below :
    (storeBytes s addr w v).below = s.below.map (Hart.dropOverlap addr.toNat w.bytes) := rfl
@[simp] theorem storeBytes_above :
    (storeBytes s addr w v).above = s.above.map (Hart.dropOverlap addr.toNat w.bytes) := rfl
@[simp] theorem storeBytes_hart : (storeBytes s addr w v).hart = s.hart.dropOverlap addr.toNat w.bytes := rfl
@[simp] theorem storeBytes_reg (r : Reg) : (storeBytes s addr w v).reg r = s.reg r := by
  simp [State.reg]
@[simp] theorem storeBytes_harts :
    (storeBytes s addr w v).harts = s.harts.map (Hart.dropOverlap addr.toNat w.bytes) := by
  simp [State.harts]

/-- A store that the checks let through keeps memory canonical. -/
theorem storeBytes_wf (h : addr.toNat % w.bytes = 0) (hm : Memory.wf s.mem) : Memory.wf (storeBytes s addr w v).mem :=
  Memory.writeLE_wf v (aligned_no_wrap h) hm

end

/-! ### `execute_op` around a handler -/

/-- An instruction that executes normally answers what the engine makes of its handler's result (R104). -/
theorem runOp_ready {s : State} {cap : Capability} (handler : State → Result) (h : s.Ready cap) :
    runOp cap s handler = .next (retire s (handler s)) := by
  simp [runOp, h.sound, h.built]

/-- Everything `runOp` can do (R104, R108). -/
theorem runOp_cases (cap : Capability) (s : State) (handler : State → Result) :
    (s.hart.defect = true ∧ runOp cap s handler = .refused .defect) ∨
    (s.hart.defect = false ∧ s.cfg.has cap = false ∧ runOp cap s handler = .next s.raiseDefect) ∨
    (s.Ready cap ∧ runOp cap s handler = .next (retire s (handler s))) := by
  cases hd : s.hart.defect with
  | true => exact .inl ⟨rfl, by simp [runOp, hd]⟩
  | false =>
    cases hc : s.cfg.has cap with
    | false => exact .inr (.inl ⟨rfl, rfl, by simp [runOp, hd, hc]⟩)
    | true => exact .inr (.inr ⟨⟨hd, hc⟩, runOp_ready handler ⟨hd, hc⟩⟩)

/-- If `runOp` answers a next state, it is the handler's, or the one with the defect flag set. -/
theorem runOp_next {cap : Capability} {s t : State} {handler : State → Result} (h : runOp cap s handler = .next t) :
    s.hart.defect = false ∧
      ((s.cfg.has cap = false ∧ t = s.raiseDefect) ∨ (s.cfg.has cap = true ∧ t = retire s (handler s))) := by
  rcases runOp_cases cap s handler with ⟨_, e⟩ | ⟨hd, hc, e⟩ | ⟨hr, e⟩
  · rw [e] at h; cases h
  · rw [e] at h; cases h; exact ⟨hd, .inl ⟨hc, rfl⟩⟩
  · rw [e] at h; cases h; exact ⟨hr.sound, .inr ⟨hr.built, rfl⟩⟩

/-- A trap is precise: everything but the Outcome and the hart's own reservation is as before (R312, R313). -/
theorem traps_takeTrap (s : State) (c : Cause) (v : Word) : Traps s (s.takeTrap c v) c v where
  pc := rfl
  outcome := rfl
  regs := fun _ _ => rfl
  mem := fun _ => rfl
  csrs := rfl
  resv := rfl
  control := ⟨rfl, rfl, rfl, rfl⟩
  below := rfl
  above := rfl
  system := ⟨rfl, rfl, rfl⟩

/-! ### The driver -/

/-- Everything the driver does to what a call returned (R112). -/
theorem driver_next {o : Host.Outcome State Fault Refusal} {t : State} (h : driver o = .next t) :
    ∃ s, o = .next s ∧ t = s.haltOnTrap := by
  cases o with
  | next s => cases h; exact ⟨s, rfl, rfl⟩
  | fault f => cases h
  | refused r => cases h

section
variable (s : State)

@[simp] theorem State.haltOnTrap_cfg : s.haltOnTrap.cfg = s.cfg := by unfold haltOnTrap; split <;> rfl
@[simp] theorem State.haltOnTrap_mem : s.haltOnTrap.mem = s.mem := by unfold haltOnTrap; split <;> rfl
@[simp] theorem State.haltOnTrap_below : s.haltOnTrap.below = s.below := by unfold haltOnTrap; split <;> rfl
@[simp] theorem State.haltOnTrap_above : s.haltOnTrap.above = s.above := by unfold haltOnTrap; split <;> rfl
@[simp] theorem State.haltOnTrap_inputs : s.haltOnTrap.inputs = s.inputs := by unfold haltOnTrap; split <;> rfl
@[simp] theorem State.haltOnTrap_tick : s.haltOnTrap.tick = s.tick := by unfold haltOnTrap; split <;> rfl
@[simp] theorem State.haltOnTrap_hart_pc : s.haltOnTrap.hart.pc = s.hart.pc := by unfold haltOnTrap; split <;> rfl
@[simp] theorem State.haltOnTrap_hart_regs : s.haltOnTrap.hart.regs = s.hart.regs := by unfold haltOnTrap; split <;> rfl
@[simp] theorem State.haltOnTrap_hart_resv : s.haltOnTrap.hart.resv = s.hart.resv := by unfold haltOnTrap; split <;> rfl
@[simp] theorem State.haltOnTrap_hart_defect : s.haltOnTrap.hart.defect = s.hart.defect := by
  unfold haltOnTrap; split <;> rfl
@[simp] theorem State.haltOnTrap_hart_csrs : s.haltOnTrap.hart.csrs = s.hart.csrs := by unfold haltOnTrap; split <;> rfl
@[simp] theorem State.haltOnTrap_hart_resetPc : s.haltOnTrap.hart.resetPc = s.hart.resetPc := by
  unfold haltOnTrap; split <;> rfl
@[simp] theorem State.haltOnTrap_hart_outcome : s.haltOnTrap.hart.outcome = s.hart.outcome := by
  unfold haltOnTrap; split <;> rfl
@[simp] theorem State.haltOnTrap_hart_fetched : s.haltOnTrap.hart.fetched = s.hart.fetched := by
  unfold haltOnTrap; split <;> rfl

end

/-- Putting hart k in focus moves no hart: the same harts in the same order (R328). -/
theorem State.focus_harts {s t : State} {k : Nat} (h : s.focus k = some t) :
    t.harts = s.harts ∧ t.cfg = s.cfg ∧ t.mem = s.mem ∧ t.inputs = s.inputs ∧ t.tick = s.tick
      ∧ s.harts[k]? = some t.hart ∧ t.below.length = k := by
  unfold focus at h
  split at h
  · cases h
  · next x xs hd =>
    cases h
    have hk : s.harts[k]? = some x := by
      have := congrArg (fun l => l[0]?) hd
      simpa using this
    have hlt : k < s.harts.length := (List.getElem?_eq_some_iff.mp hk).1
    refine ⟨?_, rfl, rfl, rfl, rfl, hk, by simpa using Nat.min_eq_left hlt.le⟩
    show s.harts.take k ++ x :: xs = s.harts
    rw [← hd, List.take_append_drop]

end Sys2Proof.Machine
end

