-- ==== Sys2Proof/Laws/PerInstr.lean ====
section
/-! SUPPORT. The family EncodingRow: every instruction's word lies in the row of spec/opcode_table.json that stands for it
(30_encoding.md rules R83 to R90). The masks and matches are the table's own, written out apart from the encoder. -/

namespace Sys2Proof.Laws.EncodingRow

/-- The `match` of the instruction's row. -/
def rowMatch : Instr → Word
  | .lui .. => 0x00000037#32
  | .auipc .. => 0x00000017#32
  | .jal .. => 0x0000006F#32
  | .jalr .. => 0x00000067#32
  | .beq .. => 0x00000063#32
  | .bne .. => 0x00001063#32
  | .blt .. => 0x00004063#32
  | .bge .. => 0x00005063#32
  | .bltu .. => 0x00006063#32
  | .bgeu .. => 0x00007063#32
  | .lb .. => 0x00000003#32
  | .lh .. => 0x00001003#32
  | .lw .. => 0x00002003#32
  | .lbu .. => 0x00004003#32
  | .lhu .. => 0x00005003#32
  | .sb .. => 0x00000023#32
  | .sh .. => 0x00001023#32
  | .sw .. => 0x00002023#32
  | .addi .. => 0x00000013#32
  | .slti .. => 0x00002013#32
  | .sltiu .. => 0x00003013#32
  | .xori .. => 0x00004013#32
  | .ori .. => 0x00006013#32
  | .andi .. => 0x00007013#32
  | .slli .. => 0x00001013#32
  | .srli .. => 0x00005013#32
  | .srai .. => 0x40005013#32
  | .add .. => 0x00000033#32
  | .sub .. => 0x40000033#32
  | .sll .. => 0x00001033#32
  | .slt .. => 0x00002033#32
  | .sltu .. => 0x00003033#32
  | .xor .. => 0x00004033#32
  | .srl .. => 0x00005033#32
  | .sra .. => 0x40005033#32
  | .or .. => 0x00006033#32
  | .and .. => 0x00007033#32
  | .fence => 0x0000000F#32
  | .ecall => 0x00000073#32
  | .ebreak => 0x00100073#32
  | .fenceI => 0x0000100F#32
  | .csrrw .. => 0x00001073#32
  | .csrrs .. => 0x00002073#32
  | .csrrc .. => 0x00003073#32
  | .csrrwi .. => 0x00005073#32
  | .csrrsi .. => 0x00006073#32
  | .csrrci .. => 0x00007073#32
  | .mul .. => 0x02000033#32
  | .mulh .. => 0x02001033#32
  | .mulhsu .. => 0x02002033#32
  | .mulhu .. => 0x02003033#32
  | .div .. => 0x02004033#32
  | .divu .. => 0x02005033#32
  | .rem .. => 0x02006033#32
  | .remu .. => 0x02007033#32
  | .lrW .. => 0x1000202F#32
  | .scW .. => 0x1800202F#32
  | .amoswapW .. => 0x0800202F#32
  | .amoaddW .. => 0x0000202F#32
  | .amoxorW .. => 0x2000202F#32
  | .amoandW .. => 0x6000202F#32
  | .amoorW .. => 0x4000202F#32
  | .amominW .. => 0x8000202F#32
  | .amomaxW .. => 0xA000202F#32
  | .amominuW .. => 0xC000202F#32
  | .amomaxuW .. => 0xE000202F#32

/-- The `mask` of the instruction's row. -/
def rowMask : Instr → Word
  | .lui .. => 0x0000007F#32
  | .auipc .. => 0x0000007F#32
  | .jal .. => 0x0000007F#32
  | .jalr .. => 0x0000707F#32
  | .beq .. => 0x0000707F#32
  | .bne .. => 0x0000707F#32
  | .blt .. => 0x0000707F#32
  | .bge .. => 0x0000707F#32
  | .bltu .. => 0x0000707F#32
  | .bgeu .. => 0x0000707F#32
  | .lb .. => 0x0000707F#32
  | .lh .. => 0x0000707F#32
  | .lw .. => 0x0000707F#32
  | .lbu .. => 0x0000707F#32
  | .lhu .. => 0x0000707F#32
  | .sb .. => 0x0000707F#32
  | .sh .. => 0x0000707F#32
  | .sw .. => 0x0000707F#32
  | .addi .. => 0x0000707F#32
  | .slti .. => 0x0000707F#32
  | .sltiu .. => 0x0000707F#32
  | .xori .. => 0x0000707F#32
  | .ori .. => 0x0000707F#32
  | .andi .. => 0x0000707F#32
  | .slli .. => 0xFE00707F#32
  | .srli .. => 0xFE00707F#32
  | .srai .. => 0xFE00707F#32
  | .add .. => 0xFE00707F#32
  | .sub .. => 0xFE00707F#32
  | .sll .. => 0xFE00707F#32
  | .slt .. => 0xFE00707F#32
  | .sltu .. => 0xFE00707F#32
  | .xor .. => 0xFE00707F#32
  | .srl .. => 0xFE00707F#32
  | .sra .. => 0xFE00707F#32
  | .or .. => 0xFE00707F#32
  | .and .. => 0xFE00707F#32
  | .fence => 0x0000707F#32
  | .ecall => 0xFFFFFFFF#32
  | .ebreak => 0xFFFFFFFF#32
  | .fenceI => 0x0000707F#32
  | .csrrw .. => 0x0000707F#32
  | .csrrs .. => 0x0000707F#32
  | .csrrc .. => 0x0000707F#32
  | .csrrwi .. => 0x0000707F#32
  | .csrrsi .. => 0x0000707F#32
  | .csrrci .. => 0x0000707F#32
  | .mul .. => 0xFE00707F#32
  | .mulh .. => 0xFE00707F#32
  | .mulhsu .. => 0xFE00707F#32
  | .mulhu .. => 0xFE00707F#32
  | .div .. => 0xFE00707F#32
  | .divu .. => 0xFE00707F#32
  | .rem .. => 0xFE00707F#32
  | .remu .. => 0xFE00707F#32
  | .lrW .. => 0xF9F0707F#32
  | .scW .. => 0xF800707F#32
  | .amoswapW .. => 0xF800707F#32
  | .amoaddW .. => 0xF800707F#32
  | .amoxorW .. => 0xF800707F#32
  | .amoandW .. => 0xF800707F#32
  | .amoorW .. => 0xF800707F#32
  | .amominW .. => 0xF800707F#32
  | .amomaxW .. => 0xF800707F#32
  | .amominuW .. => 0xF800707F#32
  | .amomaxuW .. => 0xF800707F#32

/-- The word of the instruction selects its row. -/
def Statement (i : Instr) : Prop := encode i &&& rowMask i = rowMatch i

theorem mask_encR (f7 : BitVec 7) (rs2 rs1 : Reg) (f3 : BitVec 3) (rd : Reg) (op : BitVec 7) :
    encR f7 rs2 rs1 f3 rd op &&& 0xFE00707F#32 = place f7 25 ||| place f3 12 ||| place op 0 := by
  unfold encR place
  ext i hi
  interval_cases i <;> simp

theorem mask_encI (imm : Word) (rs1 : Reg) (f3 : BitVec 3) (rd : Reg) (op : BitVec 7) :
    encI imm rs1 f3 rd op &&& 0x0000707F#32 = place f3 12 ||| place op 0 := by
  unfold encI place
  ext i hi
  interval_cases i <;> simp

theorem mask_encS (imm : Word) (rs2 rs1 : Reg) (f3 : BitVec 3) (op : BitVec 7) :
    encS imm rs2 rs1 f3 op &&& 0x0000707F#32 = place f3 12 ||| place op 0 := by
  unfold encS place
  ext i hi
  interval_cases i <;> simp

theorem mask_encB (imm : Word) (rs2 rs1 : Reg) (f3 : BitVec 3) (op : BitVec 7) :
    encB imm rs2 rs1 f3 op &&& 0x0000707F#32 = place f3 12 ||| place op 0 := by
  unfold encB place
  ext i hi
  interval_cases i <;> simp

theorem mask_encU (imm : Word) (rd : Reg) (op : BitVec 7) :
    encU imm rd op &&& 0x0000007F#32 = place op 0 := by
  unfold encU place
  ext i hi
  interval_cases i <;> simp

theorem mask_encJ (imm : Word) (rd : Reg) (op : BitVec 7) :
    encJ imm rd op &&& 0x0000007F#32 = place op 0 := by
  unfold encJ place
  ext i hi
  interval_cases i <;> simp

theorem mask_encAmo (f5 : BitVec 5) (aq rl : Bool) (rs2 rs1 rd : Reg) :
    encAmo f5 aq rl rs2 rs1 rd &&& 0xF800707F#32 = place f5 27 ||| place 0b010#3 12 ||| place 0x2F#7 0 := by
  unfold encAmo place
  ext i hi
  interval_cases i <;> simp

theorem mask_encCsr (csr : CsrAddr) (rs1 : Reg) (f3 : BitVec 3) (rd : Reg) :
    encCsr csr rs1 f3 rd &&& 0x0000707F#32 = place f3 12 ||| place 0x73#7 0 := by
  unfold encCsr place
  ext i hi
  interval_cases i <;> simp

theorem mask_encAmo_lr (aq rl : Bool) (rs1 rd : Reg) :
    encAmo 0b00010#5 aq rl 0b00000#5 rs1 rd &&& 0xF9F0707F#32 = 0x1000202F#32 := by
  unfold encAmo place
  ext i hi
  interval_cases i <;> simp

theorem lui (rd : Reg) (imm : Word) : Statement (.lui rd imm) :=
  (mask_encU _ _ _).trans rfl

theorem auipc (rd : Reg) (imm : Word) : Statement (.auipc rd imm) :=
  (mask_encU _ _ _).trans rfl

theorem jal (rd : Reg) (imm : Word) : Statement (.jal rd imm) :=
  (mask_encJ _ _ _).trans rfl

theorem jalr (rd rs1 : Reg) (imm : Word) : Statement (.jalr rd rs1 imm) :=
  (mask_encI _ _ _ _ _).trans rfl

theorem beq (rs1 rs2 : Reg) (imm : Word) : Statement (.beq rs1 rs2 imm) :=
  (mask_encB _ _ _ _ _).trans rfl

theorem bne (rs1 rs2 : Reg) (imm : Word) : Statement (.bne rs1 rs2 imm) :=
  (mask_encB _ _ _ _ _).trans rfl

theorem blt (rs1 rs2 : Reg) (imm : Word) : Statement (.blt rs1 rs2 imm) :=
  (mask_encB _ _ _ _ _).trans rfl

theorem bge (rs1 rs2 : Reg) (imm : Word) : Statement (.bge rs1 rs2 imm) :=
  (mask_encB _ _ _ _ _).trans rfl

theorem bltu (rs1 rs2 : Reg) (imm : Word) : Statement (.bltu rs1 rs2 imm) :=
  (mask_encB _ _ _ _ _).trans rfl

theorem bgeu (rs1 rs2 : Reg) (imm : Word) : Statement (.bgeu rs1 rs2 imm) :=
  (mask_encB _ _ _ _ _).trans rfl

theorem lb (rd rs1 : Reg) (imm : Word) : Statement (.lb rd rs1 imm) :=
  (mask_encI _ _ _ _ _).trans rfl

theorem lh (rd rs1 : Reg) (imm : Word) : Statement (.lh rd rs1 imm) :=
  (mask_encI _ _ _ _ _).trans rfl

theorem lw (rd rs1 : Reg) (imm : Word) : Statement (.lw rd rs1 imm) :=
  (mask_encI _ _ _ _ _).trans rfl

theorem lbu (rd rs1 : Reg) (imm : Word) : Statement (.lbu rd rs1 imm) :=
  (mask_encI _ _ _ _ _).trans rfl

theorem lhu (rd rs1 : Reg) (imm : Word) : Statement (.lhu rd rs1 imm) :=
  (mask_encI _ _ _ _ _).trans rfl

theorem sb (rs1 rs2 : Reg) (imm : Word) : Statement (.sb rs1 rs2 imm) :=
  (mask_encS _ _ _ _ _).trans rfl

theorem sh (rs1 rs2 : Reg) (imm : Word) : Statement (.sh rs1 rs2 imm) :=
  (mask_encS _ _ _ _ _).trans rfl

theorem sw (rs1 rs2 : Reg) (imm : Word) : Statement (.sw rs1 rs2 imm) :=
  (mask_encS _ _ _ _ _).trans rfl

theorem addi (rd rs1 : Reg) (imm : Word) : Statement (.addi rd rs1 imm) :=
  (mask_encI _ _ _ _ _).trans rfl

theorem slti (rd rs1 : Reg) (imm : Word) : Statement (.slti rd rs1 imm) :=
  (mask_encI _ _ _ _ _).trans rfl

theorem sltiu (rd rs1 : Reg) (imm : Word) : Statement (.sltiu rd rs1 imm) :=
  (mask_encI _ _ _ _ _).trans rfl

theorem xori (rd rs1 : Reg) (imm : Word) : Statement (.xori rd rs1 imm) :=
  (mask_encI _ _ _ _ _).trans rfl

theorem ori (rd rs1 : Reg) (imm : Word) : Statement (.ori rd rs1 imm) :=
  (mask_encI _ _ _ _ _).trans rfl

theorem andi (rd rs1 : Reg) (imm : Word) : Statement (.andi rd rs1 imm) :=
  (mask_encI _ _ _ _ _).trans rfl

theorem slli (rd rs1 : Reg) (imm : Word) : Statement (.slli rd rs1 imm) :=
  (mask_encR _ _ _ _ _ _).trans rfl

theorem srli (rd rs1 : Reg) (imm : Word) : Statement (.srli rd rs1 imm) :=
  (mask_encR _ _ _ _ _ _).trans rfl

theorem srai (rd rs1 : Reg) (imm : Word) : Statement (.srai rd rs1 imm) :=
  (mask_encR _ _ _ _ _ _).trans rfl

theorem add (rd rs1 rs2 : Reg) : Statement (.add rd rs1 rs2) :=
  (mask_encR _ _ _ _ _ _).trans rfl

theorem sub (rd rs1 rs2 : Reg) : Statement (.sub rd rs1 rs2) :=
  (mask_encR _ _ _ _ _ _).trans rfl

theorem sll (rd rs1 rs2 : Reg) : Statement (.sll rd rs1 rs2) :=
  (mask_encR _ _ _ _ _ _).trans rfl

theorem slt (rd rs1 rs2 : Reg) : Statement (.slt rd rs1 rs2) :=
  (mask_encR _ _ _ _ _ _).trans rfl

theorem sltu (rd rs1 rs2 : Reg) : Statement (.sltu rd rs1 rs2) :=
  (mask_encR _ _ _ _ _ _).trans rfl

theorem xor (rd rs1 rs2 : Reg) : Statement (.xor rd rs1 rs2) :=
  (mask_encR _ _ _ _ _ _).trans rfl

theorem srl (rd rs1 rs2 : Reg) : Statement (.srl rd rs1 rs2) :=
  (mask_encR _ _ _ _ _ _).trans rfl

theorem sra (rd rs1 rs2 : Reg) : Statement (.sra rd rs1 rs2) :=
  (mask_encR _ _ _ _ _ _).trans rfl

theorem or (rd rs1 rs2 : Reg) : Statement (.or rd rs1 rs2) :=
  (mask_encR _ _ _ _ _ _).trans rfl

theorem and (rd rs1 rs2 : Reg) : Statement (.and rd rs1 rs2) :=
  (mask_encR _ _ _ _ _ _).trans rfl

theorem fence : Statement .fence := by unfold Statement; decide

theorem ecall : Statement .ecall := by unfold Statement; decide

theorem ebreak : Statement .ebreak := by unfold Statement; decide

theorem fenceI : Statement .fenceI := by unfold Statement; decide

theorem csrrw (rd rs1 : Reg) (csr : CsrAddr) (raw : Word) : Statement (.csrrw rd rs1 csr raw) :=
  (mask_encCsr _ _ _ _).trans rfl

theorem csrrs (rd rs1 : Reg) (csr : CsrAddr) (raw : Word) : Statement (.csrrs rd rs1 csr raw) :=
  (mask_encCsr _ _ _ _).trans rfl

theorem csrrc (rd rs1 : Reg) (csr : CsrAddr) (raw : Word) : Statement (.csrrc rd rs1 csr raw) :=
  (mask_encCsr _ _ _ _).trans rfl

theorem csrrwi (rd rs1 : Reg) (imm : Word) (csr : CsrAddr) (raw : Word) : Statement (.csrrwi rd rs1 imm csr raw) :=
  (mask_encCsr _ _ _ _).trans rfl

theorem csrrsi (rd rs1 : Reg) (imm : Word) (csr : CsrAddr) (raw : Word) : Statement (.csrrsi rd rs1 imm csr raw) :=
  (mask_encCsr _ _ _ _).trans rfl

theorem csrrci (rd rs1 : Reg) (imm : Word) (csr : CsrAddr) (raw : Word) : Statement (.csrrci rd rs1 imm csr raw) :=
  (mask_encCsr _ _ _ _).trans rfl

theorem mul (rd rs1 rs2 : Reg) : Statement (.mul rd rs1 rs2) :=
  (mask_encR _ _ _ _ _ _).trans rfl

theorem mulh (rd rs1 rs2 : Reg) : Statement (.mulh rd rs1 rs2) :=
  (mask_encR _ _ _ _ _ _).trans rfl

theorem mulhsu (rd rs1 rs2 : Reg) : Statement (.mulhsu rd rs1 rs2) :=
  (mask_encR _ _ _ _ _ _).trans rfl

theorem mulhu (rd rs1 rs2 : Reg) : Statement (.mulhu rd rs1 rs2) :=
  (mask_encR _ _ _ _ _ _).trans rfl

theorem div (rd rs1 rs2 : Reg) : Statement (.div rd rs1 rs2) :=
  (mask_encR _ _ _ _ _ _).trans rfl

theorem divu (rd rs1 rs2 : Reg) : Statement (.divu rd rs1 rs2) :=
  (mask_encR _ _ _ _ _ _).trans rfl

theorem rem (rd rs1 rs2 : Reg) : Statement (.rem rd rs1 rs2) :=
  (mask_encR _ _ _ _ _ _).trans rfl

theorem remu (rd rs1 rs2 : Reg) : Statement (.remu rd rs1 rs2) :=
  (mask_encR _ _ _ _ _ _).trans rfl

theorem lrW (rd rs1 : Reg) (aq rl : Bool) : Statement (.lrW rd rs1 aq rl) :=
  mask_encAmo_lr aq rl rs1 rd

theorem scW (rd rs1 rs2 : Reg) (aq rl : Bool) : Statement (.scW rd rs1 rs2 aq rl) :=
  (mask_encAmo _ _ _ _ _ _).trans rfl

theorem amoswapW (rd rs1 rs2 : Reg) (aq rl : Bool) : Statement (.amoswapW rd rs1 rs2 aq rl) :=
  (mask_encAmo _ _ _ _ _ _).trans rfl

theorem amoaddW (rd rs1 rs2 : Reg) (aq rl : Bool) : Statement (.amoaddW rd rs1 rs2 aq rl) :=
  (mask_encAmo _ _ _ _ _ _).trans rfl

theorem amoxorW (rd rs1 rs2 : Reg) (aq rl : Bool) : Statement (.amoxorW rd rs1 rs2 aq rl) :=
  (mask_encAmo _ _ _ _ _ _).trans rfl

theorem amoandW (rd rs1 rs2 : Reg) (aq rl : Bool) : Statement (.amoandW rd rs1 rs2 aq rl) :=
  (mask_encAmo _ _ _ _ _ _).trans rfl

theorem amoorW (rd rs1 rs2 : Reg) (aq rl : Bool) : Statement (.amoorW rd rs1 rs2 aq rl) :=
  (mask_encAmo _ _ _ _ _ _).trans rfl

theorem amominW (rd rs1 rs2 : Reg) (aq rl : Bool) : Statement (.amominW rd rs1 rs2 aq rl) :=
  (mask_encAmo _ _ _ _ _ _).trans rfl

theorem amomaxW (rd rs1 rs2 : Reg) (aq rl : Bool) : Statement (.amomaxW rd rs1 rs2 aq rl) :=
  (mask_encAmo _ _ _ _ _ _).trans rfl

theorem amominuW (rd rs1 rs2 : Reg) (aq rl : Bool) : Statement (.amominuW rd rs1 rs2 aq rl) :=
  (mask_encAmo _ _ _ _ _ _).trans rfl

theorem amomaxuW (rd rs1 rs2 : Reg) (aq rl : Bool) : Statement (.amomaxuW rd rs1 rs2 aq rl) :=
  (mask_encAmo _ _ _ _ _ _).trans rfl

end Sys2Proof.Laws.EncodingRow
end

