-- ==== Sys2Proof/Tests/Slice0.lean ====
section
/-! SUPPORT. The model's own tests: ill-formed terms the checks refuse, every constructor's word written out bit by bit from
the encodings of 30_encoding.md, single steps with the values of 95_test_vectors.md, and a witness for the hypotheses of
every statement. -/

open Sys2Proof
open Sys2Proof.Machine

namespace Sys2Proof.Tests

/-! ### WellFormed: an ill-formed term for each check (R71, R77) -/

theorem test_wf_upper : Instr.wellFormed (.lui 5 0x12345000) = true ∧ Instr.wellFormed (.lui 5 0x12345001) = false
    ∧ Instr.wellFormed (.auipc 5 0xFFFFF800) = false := by decide
theorem test_wf_signed12 : Instr.wellFormed (.addi 5 6 0xFFFFF800) = true ∧ Instr.wellFormed (.addi 5 6 0x7FF) = true
    ∧ Instr.wellFormed (.addi 5 6 0x800) = false ∧ Instr.wellFormed (.addi 5 6 0xFFFFF7FF) = false := by decide
theorem test_wf_signed12_users : Instr.wellFormed (.jalr 1 6 0x800) = false ∧ Instr.wellFormed (.lb 5 6 0x800) = false
    ∧ Instr.wellFormed (.lw 5 6 0x800) = false ∧ Instr.wellFormed (.sb 6 7 0x800) = false
    ∧ Instr.wellFormed (.sw 6 7 0x800) = false ∧ Instr.wellFormed (.andi 5 6 0xFFF) = false := by decide
theorem test_wf_branch : Instr.wellFormed (.beq 1 2 0xFFFFF000) = true ∧ Instr.wellFormed (.beq 1 2 0xFFE) = true
    ∧ Instr.wellFormed (.beq 1 2 0x1000) = false ∧ Instr.wellFormed (.bgeu 1 2 0x3) = false := by decide
theorem test_wf_jump : Instr.wellFormed (.jal 1 0xFFF00000) = true ∧ Instr.wellFormed (.jal 1 0xFFFFE) = true
    ∧ Instr.wellFormed (.jal 1 0x100000) = false ∧ Instr.wellFormed (.jal 1 0x1) = false := by decide
theorem test_wf_shamt : Instr.wellFormed (.slli 5 6 31) = true ∧ Instr.wellFormed (.slli 5 6 32) = false
    ∧ Instr.wellFormed (.srai 5 6 0xFFFFFFFF) = false := by decide
theorem test_wf_uimm : Instr.wellFormed (.csrrwi 5 31 31 0x340 0) = true ∧ Instr.wellFormed (.csrrwi 5 31 30 0x340 0) = false
    ∧ Instr.wellFormed (.csrrci 5 0 0xFFFFFFE0 0x340 0) = false := by decide
theorem test_raw_matches : Instr.rawMatches (.csrrw 5 6 0x340 0x340312F3) = true
    ∧ Instr.rawMatches (.csrrw 5 6 0x340 0x340312F2) = false := by decide

/-! ### Decoding: one word per constructor, its fields written out (R80 to R90) -/

theorem test_decode_lui : decodeTableWord 32 0b10011010101111001101_00101_0110111 = some (.lui 5 0x9ABCD000) := by decide
theorem test_decode_auipc : decodeTableWord 32 0b10011010101111001101_00101_0010111 = some (.auipc 5 0x9ABCD000) := by decide
theorem test_decode_jal : decodeTableWord 32 0b1_0100101101_1_10100101_00101_1101111 = some (.jal 5 0xFFFA5A5A) := by decide
theorem test_decode_jalr : decodeTableWord 32 0b110100101101_00110_000_00101_1100111 = some (.jalr 5 6 0xFFFFFD2D) := by decide
theorem test_decode_beq : decodeTableWord 32 0b1_010010_10111_00110_000_1101_1_1100011 = some (.beq 6 23 0xFFFFFA5A) := by decide
theorem test_decode_bne : decodeTableWord 32 0b1_010010_10111_00110_001_1101_1_1100011 = some (.bne 6 23 0xFFFFFA5A) := by decide
theorem test_decode_blt : decodeTableWord 32 0b1_010010_10111_00110_100_1101_1_1100011 = some (.blt 6 23 0xFFFFFA5A) := by decide
theorem test_decode_bge : decodeTableWord 32 0b1_010010_10111_00110_101_1101_1_1100011 = some (.bge 6 23 0xFFFFFA5A) := by decide
theorem test_decode_bltu : decodeTableWord 32 0b1_010010_10111_00110_110_1101_1_1100011 = some (.bltu 6 23 0xFFFFFA5A) := by decide
theorem test_decode_bgeu : decodeTableWord 32 0b1_010010_10111_00110_111_1101_1_1100011 = some (.bgeu 6 23 0xFFFFFA5A) := by decide
theorem test_decode_lb : decodeTableWord 32 0b110100101101_00110_000_00101_0000011 = some (.lb 5 6 0xFFFFFD2D) := by decide
theorem test_decode_lh : decodeTableWord 32 0b110100101101_00110_001_00101_0000011 = some (.lh 5 6 0xFFFFFD2D) := by decide
theorem test_decode_lw : decodeTableWord 32 0b110100101101_00110_010_00101_0000011 = some (.lw 5 6 0xFFFFFD2D) := by decide
theorem test_decode_lbu : decodeTableWord 32 0b110100101101_00110_100_00101_0000011 = some (.lbu 5 6 0xFFFFFD2D) := by decide
theorem test_decode_lhu : decodeTableWord 32 0b110100101101_00110_101_00101_0000011 = some (.lhu 5 6 0xFFFFFD2D) := by decide
theorem test_decode_sb : decodeTableWord 32 0b1101001_10111_00110_000_01101_0100011 = some (.sb 6 23 0xFFFFFD2D) := by decide
theorem test_decode_sh : decodeTableWord 32 0b1101001_10111_00110_001_01101_0100011 = some (.sh 6 23 0xFFFFFD2D) := by decide
theorem test_decode_sw : decodeTableWord 32 0b1101001_10111_00110_010_01101_0100011 = some (.sw 6 23 0xFFFFFD2D) := by decide
theorem test_decode_addi : decodeTableWord 32 0b110100101101_00110_000_00101_0010011 = some (.addi 5 6 0xFFFFFD2D) := by decide
theorem test_decode_slti : decodeTableWord 32 0b110100101101_00110_010_00101_0010011 = some (.slti 5 6 0xFFFFFD2D) := by decide
theorem test_decode_sltiu : decodeTableWord 32 0b110100101101_00110_011_00101_0010011 = some (.sltiu 5 6 0xFFFFFD2D) := by decide
theorem test_decode_xori : decodeTableWord 32 0b110100101101_00110_100_00101_0010011 = some (.xori 5 6 0xFFFFFD2D) := by decide
theorem test_decode_ori : decodeTableWord 32 0b110100101101_00110_110_00101_0010011 = some (.ori 5 6 0xFFFFFD2D) := by decide
theorem test_decode_andi : decodeTableWord 32 0b110100101101_00110_111_00101_0010011 = some (.andi 5 6 0xFFFFFD2D) := by decide
theorem test_decode_slli : decodeTableWord 32 0b0000000_10011_00110_001_00101_0010011 = some (.slli 5 6 19) := by decide
theorem test_decode_srli : decodeTableWord 32 0b0000000_10011_00110_101_00101_0010011 = some (.srli 5 6 19) := by decide
theorem test_decode_srai : decodeTableWord 32 0b0100000_10011_00110_101_00101_0010011 = some (.srai 5 6 19) := by decide
theorem test_decode_add : decodeTableWord 32 0b0000000_10111_00110_000_00101_0110011 = some (.add 5 6 23) := by decide
theorem test_decode_sub : decodeTableWord 32 0b0100000_10111_00110_000_00101_0110011 = some (.sub 5 6 23) := by decide
theorem test_decode_sll : decodeTableWord 32 0b0000000_10111_00110_001_00101_0110011 = some (.sll 5 6 23) := by decide
theorem test_decode_slt : decodeTableWord 32 0b0000000_10111_00110_010_00101_0110011 = some (.slt 5 6 23) := by decide
theorem test_decode_sltu : decodeTableWord 32 0b0000000_10111_00110_011_00101_0110011 = some (.sltu 5 6 23) := by decide
theorem test_decode_xor : decodeTableWord 32 0b0000000_10111_00110_100_00101_0110011 = some (.xor 5 6 23) := by decide
theorem test_decode_srl : decodeTableWord 32 0b0000000_10111_00110_101_00101_0110011 = some (.srl 5 6 23) := by decide
theorem test_decode_sra : decodeTableWord 32 0b0100000_10111_00110_101_00101_0110011 = some (.sra 5 6 23) := by decide
theorem test_decode_or : decodeTableWord 32 0b0000000_10111_00110_110_00101_0110011 = some (.or 5 6 23) := by decide
theorem test_decode_and : decodeTableWord 32 0b0000000_10111_00110_111_00101_0110011 = some (.and 5 6 23) := by decide
theorem test_decode_fence : decodeTableWord 32 0b1000_0011_0011_00000_000_00000_0001111 = some (.fence) := by decide
theorem test_decode_ecall : decodeTableWord 32 0b000000000000_00000_000_00000_1110011 = some (.ecall) := by decide
theorem test_decode_ebreak : decodeTableWord 32 0b000000000001_00000_000_00000_1110011 = some (.ebreak) := by decide
theorem test_decode_fenceI : decodeTableWord 32 0b101000000001_00110_001_00101_0001111 = some (.fenceI) := by decide
theorem test_decode_csrrw : decodeTableWord 32 0b101101001101_00110_001_00101_1110011 = some (.csrrw 5 6 0xB4D 0xB4D312F3) := by decide
theorem test_decode_csrrs : decodeTableWord 32 0b101101001101_00110_010_00101_1110011 = some (.csrrs 5 6 0xB4D 0xB4D322F3) := by decide
theorem test_decode_csrrc : decodeTableWord 32 0b101101001101_00110_011_00101_1110011 = some (.csrrc 5 6 0xB4D 0xB4D332F3) := by decide
theorem test_decode_csrrwi : decodeTableWord 32 0b101101001101_00110_101_00101_1110011 = some (.csrrwi 5 6 6 0xB4D 0xB4D352F3) := by decide
theorem test_decode_csrrsi : decodeTableWord 32 0b101101001101_00110_110_00101_1110011 = some (.csrrsi 5 6 6 0xB4D 0xB4D362F3) := by decide
theorem test_decode_csrrci : decodeTableWord 32 0b101101001101_00110_111_00101_1110011 = some (.csrrci 5 6 6 0xB4D 0xB4D372F3) := by decide
theorem test_decode_mul : decodeTableWord 32 0b0000001_10111_00110_000_00101_0110011 = some (.mul 5 6 23) := by decide
theorem test_decode_mulh : decodeTableWord 32 0b0000001_10111_00110_001_00101_0110011 = some (.mulh 5 6 23) := by decide
theorem test_decode_mulhsu : decodeTableWord 32 0b0000001_10111_00110_010_00101_0110011 = some (.mulhsu 5 6 23) := by decide
theorem test_decode_mulhu : decodeTableWord 32 0b0000001_10111_00110_011_00101_0110011 = some (.mulhu 5 6 23) := by decide
theorem test_decode_div : decodeTableWord 32 0b0000001_10111_00110_100_00101_0110011 = some (.div 5 6 23) := by decide
theorem test_decode_divu : decodeTableWord 32 0b0000001_10111_00110_101_00101_0110011 = some (.divu 5 6 23) := by decide
theorem test_decode_rem : decodeTableWord 32 0b0000001_10111_00110_110_00101_0110011 = some (.rem 5 6 23) := by decide
theorem test_decode_remu : decodeTableWord 32 0b0000001_10111_00110_111_00101_0110011 = some (.remu 5 6 23) := by decide
theorem test_decode_lrW : decodeTableWord 32 0b00010_1_0_00000_00110_010_00101_0101111 = some (.lrW 5 6 true false) := by decide
theorem test_decode_scW : decodeTableWord 32 0b00011_1_0_10111_00110_010_00101_0101111 = some (.scW 5 6 23 true false) := by decide
theorem test_decode_amoswapW : decodeTableWord 32 0b00001_1_0_10111_00110_010_00101_0101111 = some (.amoswapW 5 6 23 true false) := by decide
theorem test_decode_amoaddW : decodeTableWord 32 0b00000_1_0_10111_00110_010_00101_0101111 = some (.amoaddW 5 6 23 true false) := by decide
theorem test_decode_amoxorW : decodeTableWord 32 0b00100_1_0_10111_00110_010_00101_0101111 = some (.amoxorW 5 6 23 true false) := by decide
theorem test_decode_amoandW : decodeTableWord 32 0b01100_1_0_10111_00110_010_00101_0101111 = some (.amoandW 5 6 23 true false) := by decide
theorem test_decode_amoorW : decodeTableWord 32 0b01000_1_0_10111_00110_010_00101_0101111 = some (.amoorW 5 6 23 true false) := by decide
theorem test_decode_amominW : decodeTableWord 32 0b10000_1_0_10111_00110_010_00101_0101111 = some (.amominW 5 6 23 true false) := by decide
theorem test_decode_amomaxW : decodeTableWord 32 0b10100_1_0_10111_00110_010_00101_0101111 = some (.amomaxW 5 6 23 true false) := by decide
theorem test_decode_amominuW : decodeTableWord 32 0b11000_1_0_10111_00110_010_00101_0101111 = some (.amominuW 5 6 23 true false) := by decide
theorem test_decode_amomaxuW : decodeTableWord 32 0b11100_1_0_10111_00110_010_00101_0101111 = some (.amomaxuW 5 6 23 true false) := by decide

/-- The words of V9.2 that are no instruction. -/
theorem test_decode_invalid :
    ([0x00000000, 0xFFFFFFFF, 0x00000001, 0x02031293, 0x30200073, 0x10500073, 0x00004073, 0x00003003,
      0x00002067, 0x00002063, 0x40001033, 0x04000033, 0x0000003B, 0x02000053, 0x1000B2AF, 0x1010A2AF] : List Word).all
      (fun w => decodeOperation Config.reference w == recordOf w .invalid 0) = true := by decide

/-- The base set alone (V9.2). -/
def bareConfig : Config := { Config.reference with hasM := false, hasA := false, hasZicsr := false, hasZifencei := false }

/-- Words of capabilities that are not built in (V9.2). -/
theorem test_decode_capability_off :
    ([0x027302B3, 0x1000A2AF, 0x0020A2AF, 0x340312F3, 0x0000100F] : List Word).all
      (fun w => decodeOperation bareConfig w == recordOf w .invalid 0) = true := by decide

/-- Every field of the record is filled from the word, whether or not the kind reads it (R80): 0x40435293 is `srai x5, x6, 4`,
funct7 0100000, funct3 101. -/
theorem test_record : decodeOperation Config.reference 0x40435293 =
    ⟨.srai, 5, 6, 4, 4, 0x404, false, false, 0b0100000101, 0x40435293⟩ := by decide
theorem test_record_wf : (decodeOperation Config.reference 0x40435293).wellFormed = true
    ∧ Operation.wellFormed ⟨.srai, 5, 6, 4, 32, 0, false, false, 0, 0⟩ = false
    ∧ Operation.wellFormed ⟨.invalid, 5, 6, 4, 32, 0, false, false, 0, 0⟩ = true := by decide

/-! ### Single steps, with the values of 95_test_vectors.md -/

/-- The reference platform after reset with pc = 0x100 and some registers. -/
def hartWith (rs : List (Reg × Word)) : State := rs.foldl (fun s r => s.setReg r.1 r.2) (State.reset.setPc 0x100)

/-- The same with a word of memory. -/
def hartMem (rs : List (Reg × Word)) (a : Nat) (v : Word) : State :=
  { hartWith rs with mem := Memory.writeLE [] a 4 v }

/-- The word at an address. -/
def wordAt (t : State) (a : Nat) : Word := Memory.readLE t.mem a 4

/-- Whether an answer is a next state of which a test holds. -/
def next (o : Host.Outcome State Fault Refusal) (p : State → Bool) : Bool :=
  match o with
  | .next t => p t
  | .fault _ => false
  | .refused _ => false

/-- One call of `execute_op` on the decoded word. -/
def call (w : Word) (s : State) : Host.Outcome State Fault Refusal := executeOp (decodeOperation s.cfg w) s

/-- Continue, with x5 and pc. -/
def gives (w : Word) (rs : List (Reg × Word)) (v : Word) : Bool :=
  next (call w (hartWith rs)) fun t => t.reg 5 == v && t.hart.pc == 0x104 && t.hart.outcome == some .continued

/-- Jump, with x1 and pc. -/
def jumps (w : Word) (rs : List (Reg × Word)) (target link : Word) : Bool :=
  next (call w (hartWith rs)) fun t => t.hart.pc == target && t.hart.outcome == some (.jumped target) && t.reg 1 == link

/-- A trap, with memory, registers and pc as they were and no reservation. -/
def traps (w : Word) (s : State) (c : Cause) (v : Word) : Bool :=
  next (call w s) fun t => t.hart.outcome == some (.trapped c v) && t.hart.pc == s.hart.pc && t.hart.regs == s.hart.regs
    && t.mem == s.mem && t.hart.resv == none

theorem test_lui : gives 0x123452B7 [] 0x12345000 = true := by decide
theorem test_auipc : gives 0xFFFFF297 [] 0xFFFFF100 = true := by decide
theorem test_addi : gives 0xFFF30293 [] 0xFFFFFFFF = true ∧ gives 0x00130293 [(6, 0x7FFFFFFF)] 0x80000000 = true := by decide
theorem test_slti : gives 0xFFF32293 [(6, 0xFFFFFFFE)] 1 = true ∧ gives 0x00032293 [(6, 5)] 0 = true := by decide
theorem test_sltiu : gives 0xFFF33293 [(6, 5)] 1 = true := by decide
theorem test_xori : gives 0xFFF34293 [(6, 0x0F0F0F0F)] 0xF0F0F0F0 = true := by decide
theorem test_ori : gives 0x80036293 [(6, 1)] 0xFFFFF801 = true := by decide
theorem test_andi : gives 0xFF037293 [(6, 0x12345678)] 0x12345670 = true := by decide
theorem test_slli : gives 0x01F31293 [(6, 3)] 0x80000000 = true := by decide
theorem test_srli : gives 0x00435293 [(6, 0x80000010)] 0x08000001 = true := by decide
theorem test_srai : gives 0x40435293 [(6, 0x80000010)] 0xF8000001 = true ∧ gives 0x41F35293 [(6, 0x7FFFFFFF)] 0 = true := by decide
theorem test_add : gives 0x007302B3 [(6, 0xFFFFFFFF), (7, 1)] 0 = true ∧ gives 0x005282B3 [(5, 3)] 6 = true := by decide
theorem test_sub : gives 0x407302B3 [(6, 0), (7, 1)] 0xFFFFFFFF = true := by decide
theorem test_sll : gives 0x007312B3 [(6, 1), (7, 33)] 2 = true := by decide
theorem test_slt : gives 0x007322B3 [(6, 0x80000000), (7, 0x7FFFFFFF)] 1 = true := by decide
theorem test_sltu : gives 0x007332B3 [(6, 0xFFFFFFFF), (7, 1)] 0 = true ∧ gives 0x007032B3 [(7, 9)] 1 = true := by decide
theorem test_xor : gives 0x007342B3 [(6, 0xFF00FF00), (7, 0x0FF00FF0)] 0xF0F0F0F0 = true := by decide
theorem test_srl : gives 0x007352B3 [(6, 0x80000000), (7, 36)] 0x08000000 = true := by decide
theorem test_sra : gives 0x407352B3 [(6, 0x80000000), (7, 36)] 0xF8000000 = true := by decide
theorem test_or : gives 0x007362B3 [(6, 0xFF00FF00), (7, 0x0FF00FF0)] 0xFFF0FFF0 = true := by decide
theorem test_and : gives 0x007372B3 [(6, 0xFF00FF00), (7, 0x0FF00FF0)] 0x0F000F00 = true := by decide

theorem test_jal : jumps 0x008000EF [] 0x108 0x104 = true ∧ jumps 0xFFDFF06F [] 0xFC 0 = true := by decide
theorem test_jal_misaligned : traps 0x002000EF (hartWith [(1, 0x77)]) .instrAddrMisaligned 0x102 = true := by decide
theorem test_jalr : jumps 0x004300E7 [(6, 0x201)] 0x204 0x104 = true ∧ jumps 0x000080E7 [(1, 0x200)] 0x200 0x104 = true := by decide
theorem test_jalr_misaligned : traps 0x002300E7 (hartWith [(6, 0x200), (1, 0x77)]) .instrAddrMisaligned 0x202 = true := by decide
theorem test_beq : gives 0x00730863 [(6, 0xFFFFFFFF), (7, 1)] 0 = true ∧ jumps 0x00730863 [(6, 5), (7, 5)] 0x110 0 = true := by decide
theorem test_bne : jumps 0x00731863 [(6, 0xFFFFFFFF), (7, 1)] 0x110 0 = true ∧ gives 0x00731863 [(6, 5), (7, 5)] 0 = true := by decide
theorem test_blt : jumps 0x00734863 [(6, 0xFFFFFFFF), (7, 1)] 0x110 0 = true ∧ gives 0x00734863 [(6, 5), (7, 5)] 0 = true := by decide
theorem test_bge : gives 0x00735863 [(6, 0xFFFFFFFF), (7, 1)] 0 = true ∧ jumps 0x00735863 [(6, 5), (7, 5)] 0x110 0 = true := by decide
theorem test_bltu : gives 0x00736863 [(6, 0xFFFFFFFF), (7, 1)] 0 = true ∧ gives 0x00736863 [(6, 5), (7, 5)] 0 = true ∧ jumps 0x00736863 [(6, 1), (7, 0xFFFFFFFF)] 0x110 0 = true := by decide
theorem test_bgeu : jumps 0x00737863 [(6, 0xFFFFFFFF), (7, 1)] 0x110 0 = true ∧ jumps 0x00737863 [(6, 5), (7, 5)] 0x110 0 = true := by decide
theorem test_branch_misaligned : traps 0x00000163 (hartWith []) .instrAddrMisaligned 0x102 = true ∧ gives 0x00001163 [] 0 = true ∧ traps 0x7E000FE3 (hartWith []) .instrAddrMisaligned 0x10FE = true := by decide

/-- A load's result in x5, from M[0x1000] = 0x8091A2F3 and x6 (V4). -/
def loads (w x6 v : Word) : Bool :=
  next (call w (hartMem [(6, x6)] 0x1000 0x8091A2F3)) fun t => t.reg 5 == v && t.hart.outcome == some .continued

/-- M[0x1000] after a store of x7 = 0xDEADBEEF (V4). -/
def stores (w x6 v : Word) : Bool :=
  next (call w (hartMem [(6, x6), (7, 0xDEADBEEF)] 0x1000 0x8091A2F3)) fun t =>
    wordAt t 0x1000 == v && t.hart.outcome == some .continued

/-- A trap of a load or store (V4). -/
def faults (w x6 : Word) (c : Cause) (v : Word) : Bool :=
  traps w (hartMem [(6, x6), (7, 0xDEADBEEF), (5, 0x77)] 0x1000 0x8091A2F3) c v

theorem test_lb : loads 0x00130283 0x1000 0xFFFFFFA2 = true ∧ loads 0x00330283 0x1000 0xFFFFFF80 = true := by decide
theorem test_lbu : loads 0x00034283 0x1000 0xF3 = true ∧ loads 0x00334283 0x1000 0x80 = true := by decide
theorem test_lh : loads 0x00231283 0x1000 0xFFFF8091 = true ∧ faults 0x00131283 0x1000 .loadAddrMisaligned 0x1001 = true := by decide
theorem test_lhu : loads 0x00235283 0x1000 0x8091 = true := by decide
theorem test_lw : loads 0x00032283 0x1000 0x8091A2F3 = true ∧ loads 0xFFC32283 0x1004 0x8091A2F3 = true := by decide
theorem test_lw_faults : faults 0x00232283 0x1000 .loadAddrMisaligned 0x1002 = true ∧ faults 0x00032283 0x10000 .loadAccessFault 0x10000 = true ∧ faults 0xFFC32283 0 .loadAccessFault 0xFFFFFFFC = true ∧ faults 0x00032283 0xFFFE .loadAddrMisaligned 0xFFFE = true := by decide
theorem test_sb : next (call 0x007300A3 (hartMem [(6, 0x1000), (7, 0x123456EE)] 0x1000 0x8091A2F3)) (fun t => wordAt t 0x1000 == 0x8091EEF3) = true := by decide
theorem test_sh : stores 0x00731123 0x1000 0xBEEFA2F3 = true ∧ faults 0x007310A3 0x1000 .storeAddrMisaligned 0x1001 = true := by decide
theorem test_sw : stores 0x00732023 0x1000 0xDEADBEEF = true ∧ stores 0xFE732C23 0x1008 0xDEADBEEF = true := by decide
theorem test_sw_faults : faults 0x007321A3 0x1000 .storeAddrMisaligned 0x1003 = true ∧ faults 0x00732023 0x10000 .storeAccessFault 0x10000 = true ∧ faults 0x00732023 0x10002 .storeAddrMisaligned 0x10002 = true := by decide

theorem test_fence : next (call 0x8330000F (hartWith [])) (fun t => t.hart.pc == 0x104 && t.hart.outcome == some .continued) = true := by decide
theorem test_fenceI : next (call 0x0000100F (hartWith [])) (fun t => t.hart.pc == 0x104 && t.hart.outcome == some .continued) = true := by decide
theorem test_ecall : traps 0x00000073 (hartWith []) .environmentCall 0 = true := by decide
theorem test_ebreak : traps 0x00100073 (hartWith []) .breakpoint 0x100 = true := by decide
theorem test_invalid : traps 0x00000000 (hartWith []) .illegalInstruction 0 = true ∧ traps 0xFFFFFFFF (hartWith []) .illegalInstruction 0xFFFFFFFF = true := by decide

/-- x5 and the scratch register after a CSR instruction that starts with scratch = 0xF0F0 (V6). -/
def csrs (w : Word) (rs : List (Reg × Word)) (x5 scratch : Word) : Bool :=
  next (call w (csrWrite (hartWith rs) 0x340 0xF0F0)) fun t =>
    t.reg 5 == x5 && csrRead t 0x340 == some scratch && t.hart.outcome == some .continued

/-- A CSR instruction that traps with its own word (V6). -/
def csrTraps (w : Word) : Bool := traps w (csrWrite (hartWith [(5, 0xAA)]) 0x340 0xF0F0) .illegalInstruction w

theorem test_csrrw : csrs 0x340312F3 [(6, 0x1234)] 0xF0F0 0x1234 = true ∧ csrs 0x34031073 [(6, 0x1234)] 0 0x1234 = true ∧ csrs 0x340292F3 [(5, 0xAA)] 0xF0F0 0xAA = true := by decide
theorem test_csrrw_traps : csrTraps 0xF14312F3 = true := by decide
theorem test_csrrs : csrs 0x340322F3 [(6, 0x0F)] 0xF0F0 0xF0FF = true ∧ csrs 0x340022F3 [] 0xF0F0 0xF0F0 = true ∧ csrs 0xF14022F3 [] 0 0xF0F0 = true := by decide
theorem test_csrrs_traps : csrTraps 0xF14322F3 = true ∧ csrTraps 0x7C0022F3 = true := by decide
theorem test_csrrc : csrs 0x340332F3 [(6, 0xF0)] 0xF0F0 0xF000 = true := by decide
theorem test_csrrwi : csrs 0x340FD2F3 [] 0xF0F0 0x1F = true ∧ csrTraps 0xF14052F3 = true := by decide
theorem test_csrrsi : csrs 0x3402E2F3 [] 0xF0F0 0xF0F5 = true ∧ csrs 0x340062F3 [] 0xF0F0 0xF0F0 = true := by decide
theorem test_csrrci : csrs 0x340872F3 [] 0xF0F0 0xF0E0 = true ∧ csrs 0xF14072F3 [] 0 0xF0F0 = true := by decide

theorem test_mul : gives 0x027302B3 [(6, 0x12345678), (7, 0x9ABCDEF0)] 0x242D2080 = true := by decide
theorem test_mulh : gives 0x027312B3 [(6, 0x80000000), (7, 1)] 0xFFFFFFFF = true ∧ gives 0x027312B3 [(6, 0x12345678), (7, 0x9ABCDEF0)] 0xF8CC93D6 = true := by decide
theorem test_mulhsu : gives 0x027322B3 [(6, 0xFFFFFFF9), (7, 3)] 0xFFFFFFFF = true ∧ gives 0x027322B3 [(6, 0x80000000), (7, 0x80000000)] 0xC0000000 = true := by decide
theorem test_mulhu : gives 0x027332B3 [(6, 0xFFFFFFFF), (7, 0xFFFFFFFF)] 0xFFFFFFFE = true := by decide
theorem test_div : gives 0x027342B3 [(6, 0xFFFFFFF9), (7, 3)] 0xFFFFFFFE = true ∧ gives 0x027342B3 [(6, 0x80000000), (7, 0xFFFFFFFF)] 0x80000000 = true ∧ gives 0x027342B3 [(6, 5), (7, 0)] 0xFFFFFFFF = true := by decide
theorem test_divu : gives 0x027352B3 [(6, 0xFFFFFFF9), (7, 3)] 0x55555553 = true ∧ gives 0x027352B3 [(6, 5), (7, 0)] 0xFFFFFFFF = true := by decide
theorem test_rem : gives 0x027362B3 [(6, 0xFFFFFFF9), (7, 3)] 0xFFFFFFFF = true ∧ gives 0x027362B3 [(6, 7), (7, 0xFFFFFFFD)] 1 = true ∧ gives 0x027362B3 [(6, 0x80000000), (7, 0xFFFFFFFF)] 0 = true := by decide
theorem test_remu : gives 0x027372B3 [(6, 0xFFFFFFF9), (7, 0xFFFFFFFD)] 0xFFFFFFF9 = true ∧ gives 0x027372B3 [(6, 0xFFFFFFFB), (7, 0)] 0xFFFFFFFB = true := by decide

/-- x5 and M[0x1000] after an AMO on M[0x1000] with x2 (V8). -/
def amos (w m x2 after : Word) : Bool :=
  next (call w (hartMem [(1, 0x1000), (2, x2)] 0x1000 m)) fun t =>
    t.reg 5 == m && wordAt t 0x1000 == after && t.hart.outcome == some .continued

theorem test_amoswapW : amos 0x0820A2AF 5 0xFFFFFFFD 0xFFFFFFFD = true ∧ amos 0x0820A2AF 0x80000000 0x7FFFFFFF 0x7FFFFFFF = true := by decide
theorem test_amoaddW : amos 0x0020A2AF 5 0xFFFFFFFD 0x00000002 = true ∧ amos 0x0020A2AF 0x80000000 0x7FFFFFFF 0xFFFFFFFF = true := by decide
theorem test_amoxorW : amos 0x2020A2AF 5 0xFFFFFFFD 0xFFFFFFF8 = true ∧ amos 0x2020A2AF 0x80000000 0x7FFFFFFF 0xFFFFFFFF = true := by decide
theorem test_amoandW : amos 0x6020A2AF 5 0xFFFFFFFD 0x00000005 = true ∧ amos 0x6020A2AF 0x80000000 0x7FFFFFFF 0 = true := by decide
theorem test_amoorW : amos 0x4020A2AF 5 0xFFFFFFFD 0xFFFFFFFD = true ∧ amos 0x4020A2AF 0x80000000 0x7FFFFFFF 0xFFFFFFFF = true := by decide
theorem test_amominW : amos 0x8020A2AF 5 0xFFFFFFFD 0xFFFFFFFD = true ∧ amos 0x8020A2AF 0x80000000 0x7FFFFFFF 0x80000000 = true := by decide
theorem test_amomaxW : amos 0xA020A2AF 5 0xFFFFFFFD 5 = true ∧ amos 0xA020A2AF 0x80000000 0x7FFFFFFF 0x7FFFFFFF = true := by decide
theorem test_amominuW : amos 0xC020A2AF 5 0xFFFFFFFD 5 = true ∧ amos 0xC020A2AF 0x80000000 0x7FFFFFFF 0x7FFFFFFF = true := by decide
theorem test_amomaxuW : amos 0xE020A2AF 5 0xFFFFFFFD 0xFFFFFFFD = true ∧ amos 0xE020A2AF 0x80000000 0x7FFFFFFF 0x80000000 = true := by decide
theorem test_amo_faults : traps 0x0020A2AF (hartMem [(1, 0x1001), (5, 0xAAAA)] 0x1000 10) .storeAddrMisaligned 0x1001 = true ∧ traps 0x0020A2AF (hartWith [(1, 0x10000)]) .storeAccessFault 0x10000 = true := by decide
theorem test_amo_source_is_destination :
    next (call 0x0020A12F (hartMem [(1, 0x1000), (2, 3)] 0x1000 10)) (fun t => wordAt t 0x1000 == 13 && t.reg 2 == 10) = true := by
  decide

/-- A hart that has reserved 0x1000 (V7.1). -/
def reserved (rs : List (Reg × Word)) : State := (hartMem rs 0x1000 0x11111111).setResv (some ⟨0x1000, 4⟩)

theorem test_lrW : next (call 0x1600A2AF (hartMem [(1, 0x1000)] 0x1000 0x11111111)) (fun t =>
    t.reg 5 == 0x11111111 && t.hart.resv == some ⟨0x1000, 4⟩ && t.hart.pc == 0x104) = true := by decide
theorem test_lrW_faults : traps 0x1000A2AF (reserved [(1, 0x1002)]) .loadAddrMisaligned 0x1002 = true
    ∧ traps 0x1000A2AF (reserved [(1, 0x10000)]) .loadAccessFault 0x10000 = true := by decide
theorem test_scW : next (call 0x1820A12F (reserved [(1, 0x1000), (2, 0x77)])) (fun t =>
    t.reg 2 == 0 && wordAt t 0x1000 == 0x77 && t.hart.resv == none) = true := by decide
theorem test_scW_fails : next (call 0x1820A32F (hartWith [(1, 0x10000)])) (fun t =>
      t.reg 6 == 1 && t.hart.outcome == some .continued) = true
    ∧ traps 0x1821A32F (reserved [(3, 0x1002), (2, 5)]) .storeAddrMisaligned 0x1002 = true := by decide

/-! ### The system: two harts, fetch, inputs (V7.2, V9.2, V9.3) -/

/-- Two harts on the reference platform, both at 0x100 with x1 = 0x1000; hart 1 in focus. Hart 0 holds a reservation on
0x1000. -/
def twoHarts : State :=
  let s := State.resetOf Config.reference CsrUnit.reference 0x100 [0x100]
  { s with
    mem := Memory.writeLE [] 0x1000 4 0x11111111
    below := [{ s.hart with regs := RegFile.write s.hart.regs 1 0x1000, resv := some ⟨0x1000, 4⟩ }]
    hart := { Hart.atReset 0x100 (CsrUnit.reference 1) with regs := RegFile.write (RegFile.write s.hart.regs 1 0x1000) 2 0xBBBBBBBB }
    above := [] }

/-- Whether hart 0 still holds its reservation after hart 1 executes a word (V7.2). -/
def keeps (w : Word) : Bool := next (call w twoHarts) fun t => t.below.all (fun h => h.resv == some ⟨0x1000, 4⟩)

theorem test_foreign_store_breaks : keeps 0x002081A3 = false ∧ keeps 0x0000A3AF = false := by decide
theorem test_foreign_access_keeps : keeps 0x0020A223 = true ∧ keeps 0x0000A383 = true ∧ keeps 0x1000A3AF = true := by decide
theorem test_hart_id : next (call 0xF14022F3 twoHarts) (fun t => t.reg 5 == 1) = true := by decide
theorem test_fetch_faults :
    next (step (State.reset.setPc 0x10000)) (fun t => t.hart.halted == some (.instrAccessFault, 0x10000)) = true
    ∧ next (step (State.reset.setPc 0x10002)) (fun t => t.hart.halted == some (.instrAddrMisaligned, 0x10002)) = true := by
  decide
theorem test_step_empty_memory :
    next (step State.reset) (fun t => t.hart.halted == some (.illegalInstruction, 0) && t.hart.pc == 0) = true := by decide
theorem test_step_last_word : next (step ((State.reset.setPc 0xFFFC).withFetchWord 32 0x00100293)) (fun t =>
    t.reg 5 == 1 && t.hart.pc == 0x10000 && t.hart.halted == none) = true := by decide
theorem test_context_switch : next (step (State.mk Config.reference [] [] (reserved []).hart [] [.contextSwitch 0] 0))
    (fun t => t.hart.resv == none && t.hart.pc == 0x100) = true := by decide
theorem test_agent_write : next (step { twoHarts with inputs := [.agentWrite 0x1003 .byte 0xBB] }) (fun t =>
    wordAt t 0x1000 == 0xBB111111 && t.below.all (fun h => h.resv == none)) = true := by decide
theorem test_reset_input : next (step { twoHarts with inputs := [.reset] }) (fun t =>
    t.below.all (fun h => h.resv == none && h.pc == 0x100) && wordAt t 0x1000 == 0x11111111) = true := by decide
theorem test_csr_unit_changes : next (step { twoHarts with inputs := [.csrUnit 0 (.table [])] }) (fun t =>
    t.hart.csrs == .table [] && t.hart.resv == some ⟨0x1000, 4⟩ && t.hart.pc == 0x100) = true := by decide
/-- A direct call runs on a halted hart and leaves the halt (log entry 21). -/
theorem test_call_on_halted :
    next (step { (hartWith []).takeTrap .breakpoint 0 |>.haltOnTrap with
      inputs := [.call 0 (decodeOperation Config.reference 0x123452B7)] }) (fun t =>
      t.reg 5 == 0x12345000 && t.hart.halted == some (.breakpoint, 0)) = true := by decide
theorem test_defect : next (exec (.mul 5 6 7) { State.reset with cfg := bareConfig }) (fun t =>
    t.hart.defect && t.hart.outcome == none && t.hart.pc == 0) = true := by decide

/-! ### Witnesses: the hypotheses of every statement are met (one theorem per statement, boundary values per clause) -/

theorem ready_base (s : State) (h : s.hart.defect = false) : s.Ready .base := ⟨h, rfl⟩

/-- The state an answer holds, for witnesses that name it. -/
def stateOf (o : Host.Outcome State Fault Refusal) (s : State) : State :=
  match o with
  | .next t => t
  | .fault _ => s
  | .refused _ => s

/-- M[0xFFFC] is the last word of the RAM; x1 points to it, x2 past it, x3 into it. -/
def edge : State := hartMem [(1, 0xFFFC), (2, 0x10000), (3, 0xFFFE), (4, 0xFFFF)] 0xFFFC 0x8091A2F3

theorem test_hyp_DecodeOfEncodeIsIdentity :
    Instr.wellFormed (.beq 31 0 0xFFFFF000) = true ∧ Instr.rawMatches (.beq 31 0 0xFFFFF000) = true
    ∧ Config.reference.has (Instr.beq 31 0 0xFFFFF000).capability = true
    ∧ Instr.wellFormed (.csrrwi 5 31 31 0x340 0x340FD2F3) = true
    ∧ Instr.rawMatches (.csrrwi 5 31 31 0x340 0x340FD2F3) = true ∧ bareConfig.has (Instr.mul 1 2 3).capability = false := by
  decide
theorem test_hyp_DecodedInstructionsAreWellFormed :
    decodeWord bareConfig 0x80000063 = .ok (.beq 0 0 0xFFFFF000) := by rfl
theorem test_hyp_EncodeOfDecodedIsTheWord :
    decodeWord bareConfig 0x80000063 = .ok (.beq 0 0 0xFFFFF000)
    ∧ decodeWord bareConfig 0xFFFF8F8F = .ok .fence ∧ 0xFFFF8F8F &&& 0x0000707F#32 = 0x0000000F#32
    ∧ decodeWord Config.reference 0xFFFF9F8F = .ok .fenceI ∧ 0xFFFF9F8F &&& 0x0000707F#32 = 0x0000100F#32 :=
  ⟨rfl, rfl, by decide, rfl, by decide⟩
theorem test_hyp_DecodedRecordCarriesItsWord :
    decodeWord Config.reference 0x340872F3 = .ok (.csrrci 5 16 16 0x340 0x340872F3)
    ∧ (decodeOperation Config.reference 0x340872F3).instr = some (.csrrci 5 16 16 0x340 0x340872F3) := ⟨rfl, rfl⟩
theorem test_hyp_InvalidExactlyWhenNoRowSelects :
    (decodeOperation Config.reference 0x02031293).kind = .invalid
    ∧ OpcodeRow.Selects ⟨0xFE00707F, 0x00001013, .base⟩ Config.reference 0x01F31293
    ∧ ⟨0xFE00707F, 0x00001013, .base⟩ ∈ opcodeRows := ⟨rfl, ⟨rfl, by decide⟩, by decide⟩

/-- UpperImmediateResults, ImmediateArithmeticResults, RegisterArithmeticResults, SetLessThanResults, ShiftResults and every
other statement that asks only for the base set. -/
theorem test_hyp_Ready_base : State.reset.Ready .base ∧ edge.Ready .base ∧ { edge with cfg := bareConfig }.Ready .base :=
  ⟨⟨rfl, rfl⟩, ⟨by decide, rfl⟩, ⟨by decide, rfl⟩⟩
/-- MultiplyResults, DivideResults. -/
theorem test_hyp_Ready_m : edge.Ready .m := ⟨by decide, rfl⟩
theorem test_hyp_HintsOnlyAdvancePc : isHintKind (.addi 0 31 0xFFFFFFFF) = true ∧ (Instr.addi 0 31 0xFFFFFFFF).dest = some 0
    ∧ edge.Ready (Instr.addi 0 31 0xFFFFFFFF).capability ∧ isHintKind (.remu 0 1 2) = true
    ∧ edge.Ready (Instr.remu 0 1 2).capability := ⟨rfl, rfl, ⟨by decide, rfl⟩, rfl, ⟨by decide, rfl⟩⟩
/-- Both clauses: JAL by the most negative offset and by 2. -/
theorem test_hyp_JalLinksAndJumps : edge.Ready .base ∧ (edge.hart.pc + 0xFFF00000).toNat % 4 = 0
    ∧ (edge.hart.pc + 2).toNat % 4 ≠ 0 := ⟨⟨by decide, rfl⟩, by decide, by decide⟩
/-- Both clauses: targets 0xFFFC (from the odd 0xFFFD) and 0xFFFE. -/
theorem test_hyp_JalrLinksAndJumps : edge.Ready .base ∧ (BitVec.ofNat 32 ((edge.reg 1 + 1).toNat / 2 * 2)).toNat % 4 = 0
    ∧ (BitVec.ofNat 32 ((edge.reg 3 + 0).toNat / 2 * 2)).toNat % 4 ≠ 0 := ⟨⟨by decide, rfl⟩, by decide, by decide⟩
/-- The three clauses of each branch, on x2 = 0x10000, x3 = 0xFFFE and x0 = 0. -/
theorem test_hyp_BranchesFollowTheirConditions :
    edge.Ready .base ∧ ¬ edge.reg 2 = edge.reg 3 ∧ edge.reg 2 = edge.reg 2
    ∧ ¬ (edge.reg 2).toInt < (edge.reg 3).toInt ∧ (edge.reg 3).toInt < (edge.reg 2).toInt
    ∧ ¬ (edge.reg 3).toInt ≥ (edge.reg 2).toInt ∧ (edge.reg 2).toInt ≥ (edge.reg 2).toInt
    ∧ ¬ (edge.reg 2).toNat < (edge.reg 2).toNat ∧ (edge.reg 0).toNat < (edge.reg 2).toNat
    ∧ ¬ (edge.reg 0).toNat ≥ (edge.reg 2).toNat ∧ (edge.reg 2).toNat ≥ (edge.reg 2).toNat
    ∧ (edge.hart.pc + 0xFFFFF000).toNat % 4 = 0 ∧ (edge.hart.pc + 0xFFE).toNat % 4 ≠ 0 :=
  ⟨⟨by decide, rfl⟩, by decide, rfl, by decide, by decide, by decide, by decide, by decide, by decide, by decide, by decide,
    by decide, by decide⟩

/-- The clauses of the loads: the last byte, half and word of the RAM, the first addresses past it, misaligned ones. -/
theorem test_hyp_LoadsReadTheirBytes :
    edge.Ready .base ∧ AccessOk edge (edge.reg 4 + 0) .byte [.read] ∧ AccessOk edge (edge.reg 3 + 0) .half [.read]
    ∧ AccessOk edge (edge.reg 1 + 0) .word [.read] ∧ (edge.reg 2 + 0).toNat % 4 = 0
    ∧ accessible edge.cfg (edge.reg 2 + 0) .byte .read = false ∧ accessible edge.cfg (edge.reg 2 + 0) .half .read = false
    ∧ accessible edge.cfg (edge.reg 2 + 0) .word .read = false
    ∧ (edge.reg 4 + 0).toNat % 2 ≠ 0 ∧ (edge.reg 3 + 0).toNat % 4 ≠ 0 :=
  ⟨⟨by decide, rfl⟩, ⟨by decide, by decide⟩, ⟨by decide, by decide⟩, ⟨by decide, by decide⟩, by decide, by decide, by decide,
    by decide, by decide, by decide⟩
theorem test_hyp_StoresWriteTheirBytes :
    edge.Ready .base ∧ AccessOk edge (edge.reg 4 + 0) .byte [.write] ∧ AccessOk edge (edge.reg 3 + 0) .half [.write]
    ∧ AccessOk edge (edge.reg 1 + 0) .word [.write] ∧ (edge.reg 2 + 0).toNat % 4 = 0
    ∧ accessible edge.cfg (edge.reg 2 + 0) .byte .write = false ∧ accessible edge.cfg (edge.reg 2 + 0) .half .write = false
    ∧ accessible edge.cfg (edge.reg 2 + 0) .word .write = false
    ∧ (edge.reg 4 + 0).toNat % 2 ≠ 0 ∧ (edge.reg 3 + 0).toNat % 4 ≠ 0 :=
  ⟨⟨by decide, rfl⟩, ⟨by decide, by decide⟩, ⟨by decide, by decide⟩, ⟨by decide, by decide⟩, by decide, by decide, by decide,
    by decide, by decide, by decide⟩
/-- A RAM that can be read and not written, so that each half of the last clause is met by itself. -/
def readOnly : Config :=
  { Config.reference with regions := [⟨0, 0x1000, [.word], [.fetch, .read]⟩, ⟨0x1000, 0x1000, [.word], [.write]⟩] }
theorem test_hyp_MemoryPrimitivesFollowTheirContract :
    AccessOk edge 0xFFFF .byte [.read] ∧ AccessOk edge 0xFFFE .half [.write] ∧ AccessOk edge 0xFFFC .word [.read, .write]
    ∧ (0xFFFF : Word).toNat % Width.half.bytes ≠ 0 ∧ (0xFFFE : Word).toNat % 4 ≠ 0
    ∧ (0x10000 : Word).toNat % Width.word.bytes = 0 ∧ accessible edge.cfg 0x10000 .word .read = false
    ∧ accessible readOnly 0xFFC .word .read = true ∧ accessible readOnly 0xFFC .word .write = false
    ∧ accessible readOnly 0x1000 .word .read = false ∧ accessible readOnly 0x1000 .word .write = true :=
  ⟨⟨by decide, by decide⟩, ⟨by decide, by decide⟩, ⟨by decide, by decide⟩, by decide, by decide, by decide, by decide,
    by decide, by decide, by decide, by decide⟩
theorem test_hyp_FencesOnlyAdvancePc : edge.Ready .base ∧ edge.Ready .zifencei
    ∧ { edge with cfg := bareConfig }.hart.defect = false ∧ { edge with cfg := bareConfig }.cfg.hasZifencei = false :=
  ⟨⟨by decide, rfl⟩, ⟨by decide, rfl⟩, by decide, rfl⟩
theorem test_hyp_EcallAndEbreakTrap : edge.Ready .base := ⟨by decide, rfl⟩
theorem test_hyp_InvalidAlwaysTraps : { edge with cfg := bareConfig }.hart.defect = false
    ∧ (Operation.mk .invalid 1 2 3 4 5 true true 6 0xFFFFFFFF).kind = .invalid
    ∧ ∀ r ∈ opcodeRows, ¬ r.Selects bareConfig 0x027302B3 := by
  refine ⟨by decide, rfl, fun r hr hs => ?_⟩
  have h : opcodeRows.all (fun r => !(bareConfig.has r.cap && (0x027302B3 &&& r.mask == r.value))) = true := by decide
  have := List.all_eq_true.mp h r hr
  simp [hs.1] at this
  exact this hs.2

/-- A CSR unit with a CSR that is only written beside the reference ones. -/
def oddCsrs : State := edge.setCsrs (.table (⟨0x7C0, 0, false, true, .whole, false⟩ :: referenceCsrs 0))
/-- The clauses of each CSR rule: not writable, writable and not readable, readable (written or not), no CSR at all. -/
theorem test_hyp_CsrInstructionsFollowTheCommonRule :
    oddCsrs.Ready .zicsr ∧ (31 : Reg) ≠ 0 ∧ csrWritable oddCsrs 0xF14 = false ∧ csrWritable oddCsrs 0x7C0 = true
    ∧ csrRead oddCsrs 0x7C0 = none ∧ csrWritable oddCsrs 0x340 = true ∧ csrRead oddCsrs 0x340 = some 0
    ∧ ((0 : Reg) != 0) = false ∧ ((1 : Reg) != 0) = true ∧ csrRead oddCsrs 0xF14 = some 0
    ∧ csrRead oddCsrs 0xFFF = none := by
  refine ⟨⟨by decide, rfl⟩, by decide, rfl, rfl, rfl, rfl, rfl, rfl, rfl, rfl, rfl⟩
/-- Both write clauses: scratch, and at the other two edges a read-only CSR and an address with none. -/
theorem test_hyp_CsrWriteChangesOneCsr : edge.hart.csrs = .table (referenceCsrs 0) ∧ csrWritable edge 0x340 = true
    ∧ (0xF14 : CsrAddr) ≠ 0x340 ∧ csrWritable edge 0xF14 = false ∧ csrWritable edge 0x341 = false := by decide
/-- A write of the read-only hartid is `Fault` and leaves the CSR file as it is (R201). -/
theorem test_csr_write_read_only : (csrWrite edge 0xF14 7).hart.csrs = edge.hart.csrs := by decide
theorem test_hyp_ReferenceCsrUnitBehaves :
    (edge.setCsrs (.table (csrPut (referenceCsrs 0) 0x340 0xFFFFFFFF))).hart.csrs
      = .table (csrPut (referenceCsrs 0) 0x340 0xFFFFFFFF)
    ∧ (0x341 : CsrAddr) ≠ 0x340 ∧ (0x341 : CsrAddr) ≠ 0xF14 := ⟨rfl, by decide, by decide⟩
theorem test_hyp_MultiplyDivideLaws : (0xFFFFFFFF : Word) ≠ 0 ∧ ¬ ((0x80000001 : Word) = 0x80000000 ∧ (0xFFFFFFFF : Word) = 0xFFFFFFFF) := by
  decide

theorem test_hyp_LoadReservedInstalls :
    edge.Ready .a ∧ AccessOk edge (edge.reg 1) .word [.read] ∧ (edge.reg 3).toNat % 4 ≠ 0
    ∧ (edge.reg 2).toNat % 4 = 0 ∧ accessible edge.cfg (edge.reg 2) .word .read = false :=
  ⟨⟨by decide, rfl⟩, ⟨by decide, by decide⟩, by decide, by decide, by decide⟩
/-- The four clauses: misaligned; matching and writable; matching and not writable; not matching. -/
theorem test_hyp_StoreConditionalFollowsReservation :
    edge.Ready .a ∧ (edge.reg 3).toNat % 4 ≠ 0
    ∧ (edge.setResv (some ⟨0xFFFC, 4⟩)).hart.resv = some ⟨(edge.setResv (some ⟨0xFFFC, 4⟩)).reg 1, 4⟩
    ∧ AccessOk edge (edge.reg 1) .word [.write]
    ∧ (edge.setResv (some ⟨0x10000, 4⟩)).hart.resv = some ⟨(edge.setResv (some ⟨0x10000, 4⟩)).reg 2, 4⟩
    ∧ (edge.reg 2).toNat % 4 = 0 ∧ accessible edge.cfg (edge.reg 2) .word .write = false
    ∧ (edge.reg 1).toNat % 4 = 0 ∧ edge.hart.resv ≠ some ⟨edge.reg 1, 4⟩ :=
  ⟨⟨by decide, rfl⟩, by decide, by decide, ⟨by decide, by decide⟩, by decide, by decide, by decide, by decide, by decide⟩
theorem test_hyp_AmosUpdateTheirWord :
    edge.Ready .a ∧ AccessOk edge (edge.reg 1) .word [.read, .write] ∧ (edge.reg 3).toNat % 4 ≠ 0
    ∧ (edge.reg 2).toNat % 4 = 0 ∧ accessible edge.cfg (edge.reg 2) .word .read = false
    ∧ accessible edge.cfg (edge.reg 2) .word .write = false :=
  ⟨⟨by decide, rfl⟩, ⟨by decide, by decide⟩, by decide, by decide, by decide, by decide⟩
theorem test_hyp_ScAfterMatchingLrSucceeds :
    edge.Ready .a ∧ AccessOk edge (edge.reg 1) .word [.read, .write]
    ∧ ∃ t, exec (.lrW 5 1 false false) edge = .next t ∧ t.reg 1 = edge.reg 1 :=
  ⟨⟨by decide, rfl⟩, ⟨by decide, by decide⟩, _, rfl, by decide⟩
/-- The last byte of the other hart's granule. -/
theorem test_hyp_StoresBreakReservations :
    twoHarts.Ready .base ∧ AccessOk twoHarts (twoHarts.reg 1 + 3) .byte [.write]
    ∧ AccessOk twoHarts (twoHarts.reg 1 + 2) .half [.write] ∧ AccessOk twoHarts (twoHarts.reg 1 + 0) .word [.write]
    ∧ (twoHarts.harts[0]?).map (fun h => h.resv) = some (some ⟨0x1000, 4⟩)
    ∧ Reservation.Meets ⟨0x1000, 4⟩ (twoHarts.reg 1 + 3).toNat 1
    ∧ Reservation.Meets ⟨0x1000, 4⟩ (twoHarts.reg 1 + 2).toNat 2
    ∧ Reservation.Meets ⟨0x1000, 4⟩ (twoHarts.reg 1 + 0).toNat 4
    ∧ ∃ t u, exec (.sb 1 2 3) twoHarts = .next t ∧ t.focus 0 = some u ∧ u.Ready .a ∧ (u.reg 1).toNat % 4 = 0 :=
  ⟨⟨by decide, rfl⟩, ⟨by decide, by decide⟩, ⟨by decide, by decide⟩, ⟨by decide, by decide⟩, by decide,
    ⟨by decide, by decide⟩, ⟨by decide, by decide⟩, ⟨by decide, by decide⟩, _, _, rfl, rfl, ⟨by decide, rfl⟩, by decide⟩
theorem test_hyp_AmoAddsOfTwoHartsAreNotLost :
    twoHarts.Ready .a ∧ AccessOk twoHarts (twoHarts.reg 1) .word [.read, .write]
    ∧ ∃ t u, exec (.amoaddW 0 1 2 false false) twoHarts = .next t ∧ t.focus 0 = some u ∧ u.Ready .a
      ∧ u.reg 1 = twoHarts.reg 1 :=
  ⟨⟨by decide, rfl⟩, ⟨by decide, by decide⟩, _, _, rfl, rfl, ⟨by decide, rfl⟩, by decide⟩

/-- An instruction as the Operation its word decodes to. -/
def op (i : Instr) : Operation := decodeOperation Config.reference (encode i)

/-- OnlyTheDestinationIsWritten and TrapsArePrecise: an instruction that traps, from a hart with a reservation. -/
theorem test_hyp_TrapsArePrecise :
    (∃ t, executeOp (op (.lw 5 3 0)) (edge.setResv (some ⟨0xFFFC, 4⟩)) = .next t
      ∧ t.hart.outcome = some (.trapped .loadAddrMisaligned 0xFFFE))
    ∧ (edge.setPc 0x10000).hart.fetched = none
    ∧ ∃ t, execute (edge.setPc 0x10000) = .next t ∧ t.hart.outcome = some (.trapped .instrAccessFault 0x10000) :=
  ⟨⟨_, rfl, by decide⟩, by decide, _, rfl, by decide⟩
/-- The four clauses: Continue at the top of the address space, Jump, Trap, no Outcome. -/
theorem test_hyp_PcFollowsTheOutcome :
    (∃ t, executeOp (op (.addi 5 6 1)) (edge.setPc 0xFFFFFFFC) = .next t ∧ t.hart.outcome = some .continued)
    ∧ (∃ t, executeOp (op (.jal 1 0xFFFFFFFC)) (edge.setPc 0) = .next t ∧ t.hart.outcome = some (.jumped 0xFFFFFFFC))
    ∧ (∃ t, executeOp (op .ecall) edge = .next t ∧ t.hart.outcome = some (.trapped .environmentCall 0))
    ∧ (∃ t, executeOp (op (.mul 5 6 7)) { edge with cfg := bareConfig } = .next t ∧ t.hart.outcome = none) :=
  ⟨⟨_, rfl, by decide⟩, ⟨_, rfl, by decide⟩, ⟨_, rfl, by decide⟩, ⟨_, rfl, by decide⟩⟩
theorem test_hyp_OtherHartsOnlyLoseReservations : ∃ t, exec (.sw 1 2 0) twoHarts = .next t := ⟨_, rfl⟩
theorem test_hyp_OnlyCsrInstructionsWriteCsrs :
    (∃ t, exec .ebreak edge = .next t) ∧ Instr.capability .ebreak ≠ .zicsr := ⟨⟨_, rfl⟩, by decide⟩
theorem test_hyp_OnlyStoresWriteMemory :
    (∃ t, exec (.lrW 5 1 true true) edge = .next t) ∧ storesMemory (.lrW 5 1 true true) = false := ⟨⟨_, rfl⟩, rfl⟩
theorem test_hyp_ReservationSurvivesOtherInstructions :
    ∃ t, exec .fence (edge.setResv (some ⟨0xFFFC, 4⟩)) = .next t ∧ storesMemory .fence = false
      ∧ isLoadReserved .fence = false ∧ t.hart.outcome = some .continued := ⟨_, rfl, rfl, rfl, by decide⟩
/-- A hart with its defect flag set. -/
def defective : State := { edge with hart := { edge.hart with defect := true } }
theorem test_hyp_EveryCallReturns : edge.hart.defect = false ∧ defective.hart.defect = true := by decide
theorem test_hyp_DisabledKindSetsDefect :
    edge.hart.defect = false ∧ { edge with cfg := bareConfig }.cfg.has (Instr.lrW 5 1 false false).capability = false := by
  decide
theorem test_hyp_ExecuteNeverSetsDefect :
    (∀ o, (edge.setFetched (some (op (.mul 5 6 7)))).hart.fetched = some o → BuiltIn edge.cfg o)
    ∧ (∃ t, execute (edge.setFetched (some (op (.mul 5 6 7)))) = .next t)
    ∧ (∃ t, step { twoHarts with inputs := [.event 1] } = .next t ∧ t.harts[0]?.isSome = true) ∧ twoHarts.harts[0]?.isSome = true
    ∧ ∀ j o, { twoHarts with inputs := [.event 1] }.inputs.head? ≠ some (.call j o) := by
  refine ⟨fun o h i hi => ?_, ⟨_, rfl⟩, ⟨_, rfl, by decide⟩, by decide, fun j o h => by cases h⟩
  have : o = op (.mul 5 6 7) := (Option.some.inj h).symm
  subst this
  have : i = .mul 5 6 7 := (Option.some.inj hi).symm
  subst this
  rfl

theorem test_hyp_FetchFaultsTrap :
    (edge.setPc 0x10002).hart.defect = false ∧ (edge.setPc 0x10002).hart.fetched = none
    ∧ (edge.setPc 0x10002).hart.pc.toNat % 4 ≠ 0 ∧ (edge.setPc 0x10000).hart.pc.toNat % 4 = 0
    ∧ accessible edge.cfg (edge.setPc 0x10000).hart.pc .word .fetch = false := by decide
/-- Hart 0 of one, at the last word of the RAM, which holds `addi x5, x6, 1`. -/
def lastWord (inputs : List Input) : State :=
  { State.reset.setPc 0xFFFC with mem := Memory.writeLE [] 0xFFFC 4 0x00130293, inputs := inputs }
/-- Both ways to move: the driver of hart 0 runs, and hart 0 alone can move. -/
theorem test_hyp_StepRunsTheDecodedInstruction :
    (∃ u, (lastWord [.run 0]).begin.focus 0 = some u ∧ u.hart.canMove = true ∧ u.hart.fetched = none
      ∧ AccessOk u u.hart.pc .word [.fetch] ∧ decodeBytes u.cfg (fetchBytes u) = .ok (.addi 5 6 1, []))
    ∧ (lastWord [.run 0]).inputs.head? = some (.run 0)
    ∧ (∃ u, (lastWord []).begin.focus 0 = some u ∧ u.hart.canMove = true ∧ u.hart.fetched = none
      ∧ AccessOk u u.hart.pc .word [.fetch] ∧ decodeBytes u.cfg (fetchBytes u) = .ok (.addi 5 6 1, []))
    ∧ (lastWord []).inputs = [] ∧ movableFrom 0 (lastWord []).harts = [0] :=
  ⟨⟨_, rfl, by decide, by decide, ⟨by decide, by decide⟩, rfl⟩, rfl,
    ⟨_, rfl, by decide, by decide, ⟨by decide, by decide⟩, rfl⟩, rfl, by decide⟩
theorem test_hyp_StepTrapsOnInvalidWords :
    State.reset.hart.defect = false ∧ State.reset.hart.fetched = none
    ∧ AccessOk State.reset State.reset.hart.pc .word [.fetch]
    ∧ decodeBytes State.reset.cfg (fetchBytes State.reset) = .error .compressedSpace :=
  ⟨by decide, by decide, ⟨by decide, by decide⟩, rfl⟩
/-- Both clauses: no fetch in progress, and one in progress. -/
theorem test_hyp_ExecuteIsTwoEvents :
    (∃ u, (lastWord [.event 0]).begin.focus 0 = some u ∧ u.hart.canMove = true ∧ u.hart.fetched = none
      ∧ loadInstruction u = .ok (op (.addi 5 6 1)))
    ∧ (lastWord [.event 0]).inputs.head? = some (.event 0)
    ∧ ∃ u, ((lastWord [.event 0]).setFetched (some (op .fence))).begin.focus 0 = some u ∧ u.hart.canMove = true
      ∧ u.hart.fetched = some (op .fence) :=
  ⟨⟨_, rfl, by decide, by decide, rfl⟩, rfl, ⟨_, rfl, by decide, by decide⟩⟩
theorem test_hyp_StoresAreSeenByLaterFetches :
    (twoHarts.setReg 1 0x100).Ready .base
    ∧ AccessOk (twoHarts.setReg 1 0x100) ((twoHarts.setReg 1 0x100).reg 1 + 0) .word [.write]
    ∧ ∃ t u, exec (.sw 1 2 0) (twoHarts.setReg 1 0x100) = .next t ∧ t.focus 0 = some u
      ∧ u.hart.pc = (twoHarts.setReg 1 0x100).reg 1 + 0 ∧ accessible u.cfg u.hart.pc .word .fetch = true :=
  ⟨⟨by decide, rfl⟩, ⟨by decide, by decide⟩, _, _, rfl, rfl, by decide, by decide⟩
/-- Both clauses: a call that traps, and a halted hart. -/
theorem test_hyp_DriverHaltsOnTrap :
    (∃ u, { State.reset with inputs := [.run 0] }.begin.focus 0 = some u ∧ u.hart.canMove = true
      ∧ ∃ t, execute u = .next t ∧ t.hart.outcome = some (.trapped .illegalInstruction 0))
    ∧ (∃ u, { State.reset.setFetched (some (decodeOperation Config.reference 0)) with inputs := [.event 0] }.begin.focus 0 = some u
      ∧ u.hart.fetched.isSome = true ∧ u.hart.canMove = true
      ∧ ∃ t, execute u = .next t ∧ t.hart.outcome = some (.trapped .illegalInstruction 0))
    ∧ (∃ u, { State.reset.setPc 2 with inputs := [.event 0] }.begin.focus 0 = some u
      ∧ (∃ f, loadInstruction u = .error f) ∧ u.hart.canMove = true
      ∧ ∃ t, execute u = .next t ∧ t.hart.outcome = some (.trapped .instrAddrMisaligned 2))
    ∧ (∃ u, { State.reset.takeTrap .breakpoint 0 |>.haltOnTrap with inputs := [.run 0] }.begin.focus 0 = some u
      ∧ u.hart.halted.isSome = true)
    ∧ ∃ u, { State.reset.takeTrap .breakpoint 0 |>.haltOnTrap with inputs := [.event 0] }.begin.focus 0 = some u
      ∧ u.hart.halted.isSome = true := by
  refine ⟨⟨_, rfl, ?_, _, rfl, ?_⟩, ⟨_, rfl, ?_, ?_, _, rfl, ?_⟩, ⟨_, rfl, ⟨_, rfl⟩, ?_, _, rfl, ?_⟩, ⟨_, rfl, ?_⟩, _, rfl, ?_⟩ <;>
    decide
/-- Two harts, hart 1 in focus and halted, hart 0 able to move. -/
def oneHalted : State := (twoHarts.takeTrap .breakpoint 0).haltOnTrap
/-- The last clause, where the halted hart is asked for an event, and where nothing is queued and the other hart moves. -/
theorem test_hyp_DriverHaltsOnTrap_haltedStays :
    (∀ i, { oneHalted with inputs := [.event 1] }.inputs.head? = some i → ∃ j, i = .run j ∨ i = .event j)
    ∧ (∃ t, step { oneHalted with inputs := [.event 1] } = .next t)
    ∧ (∀ i, oneHalted.inputs.head? = some i → ∃ j, i = .run j ∨ i = .event j) ∧ (∃ t, step oneHalted = .next t)
    ∧ oneHalted.harts[1]? = some oneHalted.hart ∧ oneHalted.hart.halted.isSome = true :=
  ⟨fun _ h => ⟨1, .inr (by cases h; rfl)⟩, ⟨_, rfl⟩, fun _ h => (by cases h), ⟨_, rfl⟩, rfl, by decide⟩
/-- Every clause: a hart that can move, every hart halted, and a defective hart. -/
theorem test_hyp_RunEndsWhenNoHartMoves :
    State.reset.inputs = [] ∧ (∃ h ∈ State.reset.harts, h.canMove = true)
    ∧ (State.reset.takeTrap .breakpoint 0).haltOnTrap.inputs = []
    ∧ (∀ h ∈ (State.reset.takeTrap .breakpoint 0).haltOnTrap.harts, h.canMove = false ∧ h.defect = false)
    ∧ defective.inputs = [] ∧ (∀ h ∈ defective.harts, h.canMove = false) ∧ ∃ h ∈ defective.harts, h.defect = true := by
  decide
theorem test_hyp_ContextSwitchClearsOneReservation :
    ∃ u, { twoHarts with inputs := [.contextSwitch 0] }.begin.focus 0 = some u ∧ u.hart.fetched = none
      ∧ u.hart.resv = some ⟨0x1000, 4⟩ := ⟨_, rfl, by decide, by decide⟩
theorem test_hyp_ResetInputSetsEveryHart :
    { twoHarts with inputs := [.reset] }.inputs.head? = some .reset ∧ ∀ h ∈ twoHarts.harts, h.fetched = none :=
  ⟨rfl, by decide⟩
/-- Both clauses, at the two sides of the RAM's end. -/
theorem test_hyp_AgentStoresUseTheStorePath :
    { edge with inputs := [.agentWrite 0xFFFF .byte 1] }.inputs.head? = some (.agentWrite 0xFFFF .byte 1)
    ∧ AccessOk edge 0xFFFF .byte [.write] ∧ ¬ AccessOk edge 0x10000 .byte [.write] :=
  ⟨rfl, ⟨by decide, by decide⟩, fun h => by have := h.served .write (by decide); revert this; decide⟩

theorem test_hyp_ResetMeetsTheInvariant : (State.resetOf Config.reference CsrUnit.reference 0xFFFFFFFC [0x100]).harts[1]?
      = some (Hart.atReset 0x100 (CsrUnit.reference 1)) ∧ (0xFFFFFFFC : Word).toNat % 4 = 0 ∧ ∀ pc ∈ [(0x100 : Word)], pc.toNat % 4 = 0 :=
  ⟨rfl, rfl, fun pc h => by rcases List.mem_singleton.mp h with rfl; rfl⟩
/-- The invariant holds of two harts, one with a reservation, and of memory that lists something. -/
theorem twoHarts_inv : twoHarts.Inv := by
  refine ⟨by decide, fun h hh => ?_, fun i hi => by cases hi⟩
  have : h.pc = 0x100 ∧ h.resetPc = 0x100 ∧ (h.resv = none ∨ h.resv = some ⟨0x1000, 4⟩) ∧ h.fetched = none := by
    revert h; decide
  obtain ⟨hp, hr, hv, hf⟩ := this
  refine ⟨by rw [hp]; decide, by rw [hr]; decide, fun r hs => ?_, fun o ho => by rw [hf] at ho; cases ho⟩
  rcases hv with hv | hv
  · rw [hv] at hs; cases hs
  · rw [hv] at hs; cases hs; decide
theorem test_hyp_StepKeepsTheInvariant :
    { twoHarts with inputs := [.run 0] }.Inv ∧ ∃ t, step { twoHarts with inputs := [.run 0] } = .next t :=
  ⟨⟨twoHarts_inv.mem, twoHarts_inv.harts, fun i hi => by rcases List.mem_singleton.mp hi with rfl; trivial⟩, _, rfl⟩
theorem test_hyp_StepKeepsTheParameters : ∃ t, step { twoHarts with inputs := [.reset] } = .next t := ⟨_, rfl⟩
theorem test_hyp_DefectIsSticky :
    ∃ t h, step { defective with inputs := [.resume 0 0x200] } = .next t
      ∧ { defective with inputs := [.resume 0 0x200] }.inputs.head? ≠ some .reset
      ∧ { defective with inputs := [.resume 0 0x200] }.harts[0]? = some h ∧ h.defect = true :=
  ⟨_, _, rfl, by decide, rfl, by decide⟩
theorem test_hyp_FetchIsNeverMisaligned :
    (State.resetOf Config.reference CsrUnit.reference 0x10000 []).Inv
    ∧ loadInstruction (State.resetOf Config.reference CsrUnit.reference 0x10000 []) = .error ⟨.accessFault, 0x10000⟩ := by
  refine ⟨⟨by decide, fun h hh => ?_, fun i hi => by cases hi⟩, rfl⟩
  have : h.pc = 0x10000 ∧ h.resetPc = 0x10000 ∧ h.resv = none ∧ h.fetched = none := by revert h; decide
  obtain ⟨hp, hr, hv, hf⟩ := this
  exact ⟨by rw [hp]; decide, by rw [hr]; decide, (fun r hs => by rw [hv] at hs; cases hs),
    fun o ho => by rw [hf] at ho; cases ho⟩

end Sys2Proof.Tests
end

section
/-! SUPPORT. What one handler, one call, one hart and one step of the system can do, each said once. Proofs about every
step cite these lemmas and do not unfold the handlers, the engine or the driver again. -/

namespace Sys2Proof.Machine

/-! ### The handlers (R101, R106) -/

/-- Everything the handler of an instruction of a capability can answer in state `s`, with the guard each answer has
passed. -/
inductive HandlerAnswer (s : State) : Capability → Result → Prop where
  | nothing {cap} : HandlerAnswer s cap (.cont s)
  | writeReg {cap} (rd : Reg) (v : Word) : HandlerAnswer s cap (.cont (s.setReg rd v))
  | trap {cap} (c : Cause) (v : Word) : HandlerAnswer s cap (.trap c v)
  | jump {cap} (t : Word) (ht : t.extractLsb' 0 2 = 0#2) : HandlerAnswer s cap (.jump t (s.setPc t))
  | link {cap} (rd : Reg) (t : Word) (ht : t.extractLsb' 0 2 = 0#2) :
      HandlerAnswer s cap (.jump t ((s.setReg rd (s.hart.pc + 4)).setPc t))
  | store {cap} (addr : Word) (w : Width) (v : Word) (ha : AccessOk s addr w [.write]) :
      HandlerAnswer s cap (.cont (storeBytes s addr w v))
  | csrWritten (cs : CsrUnit) : HandlerAnswer s .zicsr (.cont (s.setCsrs cs))
  | csrRead (cs : CsrUnit) (rd : Reg) (old : Word) : HandlerAnswer s .zicsr (.cont ((s.setCsrs cs).setReg rd old))
  | reserve (ea : Word) (rd : Reg) (v : Word) (ha : AccessOk s ea .word [.read]) :
      HandlerAnswer s .a (.cont ((s.setResv (some ⟨ea, 4⟩)).setReg rd v))
  | conditionalStore (ea : Word) (rd : Reg) (v : Word) (hr : s.hart.resv = some ⟨ea, 4⟩)
      (ha : AccessOk s ea .word [.write]) :
      HandlerAnswer s .a (.cont (((storeBytes s ea .word v).setResv none).setReg rd 0))
  | update (addr : Word) (rd : Reg) (old v : Word) (ha : AccessOk s addr .word [.read, .write]) :
      HandlerAnswer s .a (.cont ((storeBytes s addr .word v).setReg rd old))

/-- A CSR unit's write changes nothing but the unit (R201). -/
theorem csrWrite_eq_setCsrs (s : State) (addr : CsrAddr) (v : Word) : ∃ cs, csrWrite s addr v = s.setCsrs cs := by
  unfold csrWrite
  split <;> exact ⟨_, rfl⟩

/-- A CSR unit's read changes nothing but the unit (R202). -/
theorem csrAfterRead_eq_setCsrs (s : State) (addr : CsrAddr) : ∃ cs, csrAfterRead s addr = s.setCsrs cs := by
  unfold csrAfterRead
  split
  · exact ⟨s.hart.csrs, rfl⟩
  · exact ⟨_, rfl⟩

section
variable (s : State) {cap : Capability}

theorem handlerAnswer_jumpAndLink (rd : Reg) (t : Word) : HandlerAnswer s cap (jumpAndLink rd t s) := by
  unfold jumpAndLink
  split
  · exact .trap _ _
  · next ht => exact .link rd t (not_not.mp ht)

theorem handlerAnswer_branch (cond : Word → Word → Bool) (rs1 rs2 : Reg) (imm : Word) :
    HandlerAnswer s cap (branch cond rs1 rs2 imm s) := by
  unfold branch
  split
  · dsimp only
    split
    · exact .trap _ _
    · next ht => exact .jump _ (not_not.mp ht)
  · exact .nothing

theorem handlerAnswer_load (w : Width) (ext : Word → Word) (rd rs1 : Reg) (imm : Word) :
    HandlerAnswer s cap (load w ext rd rs1 imm s) := by
  unfold load
  split
  · exact .trap _ _
  · exact .writeReg _ _

theorem handlerAnswer_store (w : Width) (rs1 rs2 : Reg) (imm : Word) :
    HandlerAnswer s cap (store w rs1 rs2 imm s) := by
  unfold store
  obtain ⟨f, -, e⟩ | ⟨ha, e⟩ := memWrite_cases s (effAddr s rs1 imm) w (s.reg rs2) <;> rw [e]
  · exact .trap _ _
  · exact .store _ _ _ ha

theorem handlerAnswer_csrAccess (doRead doWrite : Bool) (new : Word → Word → Word) (src : Word) (rd : Reg)
    (csr : CsrAddr) (raw : Word) : HandlerAnswer s .zicsr (csrAccess doRead doWrite new src rd csr raw s) := by
  obtain ⟨read, hread⟩ := csrAfterRead_eq_setCsrs s csr
  unfold csrAccess
  split
  · exact .trap _ _
  · split
    · split
      · exact .trap _ _
      · next old _ =>
        obtain ⟨written, hwritten⟩ := csrWrite_eq_setCsrs (s.setCsrs read) csr (new old src)
        simp only [hread, hwritten]
        split
        · exact .csrRead written rd old
        · exact .csrRead read rd old
    · obtain ⟨written, hwritten⟩ := csrWrite_eq_setCsrs s csr (new 0 src)
      rw [hwritten]
      split
      · exact .csrWritten written
      · exact .nothing

theorem handlerAnswer_amo (f : Word → Word → Word) (rd rs1 rs2 : Reg) :
    HandlerAnswer s .a (amo f rd rs1 rs2 s) := by
  unfold amo
  obtain ⟨e, -, h⟩ | ⟨ha, h⟩ := memAmo_cases s (s.reg rs1) f (s.reg rs2) <;> rw [h]
  · exact .trap _ _
  · exact .update _ _ _ _ ha

theorem handlerAnswer_loadReserved (rd rs1 : Reg) : HandlerAnswer s .a (loadReserved rd rs1 s) := by
  unfold loadReserved
  obtain ⟨f, -, e⟩ | ⟨ha, e⟩ := memRead_cases s (s.reg rs1) .word <;> simp only [e]
  · exact .trap _ _
  · exact .reserve _ _ _ ha

theorem handlerAnswer_storeConditional (rd rs1 rs2 : Reg) :
    HandlerAnswer s .a (storeConditional rd rs1 rs2 s) := by
  unfold storeConditional
  dsimp only
  split
  · exact .trap _ _
  · split
    · next hr =>
      obtain ⟨f, -, e⟩ | ⟨ha, e⟩ := memWrite_cases s (s.reg rs1) .word (s.reg rs2) <;> rw [e]
      · exact .trap _ _
      · exact .conditionalStore _ _ _ hr ha
    · -- SC_FAIL_CLEARS_RESERVATION is false, so that a failing SC.W keeps the reservation (R244).
      exact .writeReg rd 1

/-- `exec` is the engine around the instruction's handler, which answers as `HandlerAnswer` says (R104, R110). -/
theorem exec_eq_runOp (i : Instr) :
    ∃ handler, exec i s = runOp i.capability s handler ∧ HandlerAnswer s i.capability (handler s) := by
  cases i with
  | fence | fenceI => exact ⟨_, rfl, .nothing⟩
  | ecall => exact ⟨fun _ => .trap .environmentCall 0, rfl, .trap _ _⟩
  | ebreak => exact ⟨fun s => .trap .breakpoint s.hart.pc, rfl, .trap _ _⟩
  | lui rd imm => exact ⟨fun s => .cont (s.setReg rd imm), rfl, .writeReg _ _⟩
  | auipc rd imm => exact ⟨fun s => .cont (s.setReg rd (s.hart.pc + imm)), rfl, .writeReg _ _⟩
  | addi | slti | sltiu | xori | ori | andi | slli | srli | srai
  | add | sub | sll | slt | sltu | xor | srl | sra | or | and
  | mul | mulh | mulhsu | mulhu | div | divu | rem | remu => exact ⟨_, rfl, .writeReg _ _⟩
  | jal | jalr => exact ⟨_, rfl, handlerAnswer_jumpAndLink s _ _⟩
  | beq | bne | blt | bge | bltu | bgeu => exact ⟨_, rfl, handlerAnswer_branch s _ _ _ _⟩
  | lb | lh | lw | lbu | lhu => exact ⟨_, rfl, handlerAnswer_load s _ _ _ _ _⟩
  | sb | sh | sw => exact ⟨_, rfl, handlerAnswer_store s _ _ _ _⟩
  | csrrw | csrrs | csrrc | csrrwi | csrrsi | csrrci => exact ⟨_, rfl, handlerAnswer_csrAccess s _ _ _ _ _ _ _⟩
  | lrW => exact ⟨_, rfl, handlerAnswer_loadReserved s _ _⟩
  | scW => exact ⟨_, rfl, handlerAnswer_storeConditional s _ _ _⟩
  | amoswapW | amoaddW | amoxorW | amoandW | amoorW | amominW | amomaxW | amominuW | amomaxuW =>
    exact ⟨_, rfl, handlerAnswer_amo s _ _ _ _⟩

end

/-! ### One call (R103, R104) -/

/-- If `execute_op` answers a next state, the hart was not defective, and the state is the one with the defect flag set or
what the engine makes of a handler's answer. -/
theorem executeOp_next {op : Operation} {s t : State} (h : executeOp op s = .next t) :
    s.hart.defect = false ∧ ∃ cap, (s.cfg.has cap = false ∧ t = s.raiseDefect) ∨
      (s.cfg.has cap = true ∧ ∃ r, HandlerAnswer s cap r ∧ t = retire s r) := by
  obtain ⟨cap, handler, e, ha⟩ :
      ∃ cap handler, executeOp op s = runOp cap s handler ∧ HandlerAnswer s cap (handler s) := by
    unfold executeOp
    split
    · next i _ => exact ⟨i.capability, exec_eq_runOp s i⟩
    · exact ⟨.base, _, rfl, .trap _ _⟩
  obtain ⟨hd, ⟨hc, ht⟩ | ⟨hc, ht⟩⟩ := runOp_next (e ▸ h)
  · exact ⟨hd, cap, .inl ⟨hc, ht⟩⟩
  · exact ⟨hd, cap, .inr ⟨hc, _, ha, ht⟩⟩

/-- If `execute` answers a next state, the hart was not defective and it trapped on the fetch, or ended a call
whose fetch was done, or fetched and executed an Operation (R55, R103). -/
theorem execute_next {s t : State} (h : execute s = .next t) :
    s.hart.defect = false ∧
    ((∃ f, s.hart.fetched = none ∧ loadInstruction s = .error f ∧ t = s.takeTrap (fetchCause f.kind) f.addr) ∨
    (∃ op, s.hart.fetched = some op ∧ executeOp op (s.setFetched none) = .next t) ∨
    (∃ op, s.hart.fetched = none ∧ loadInstruction s = .ok op ∧ executeOp op s = .next t)) := by
  unfold execute at h
  split at h
  · cases h
  · next hd =>
    refine ⟨by simpa using hd, ?_⟩
    split at h
    · next op hf => exact .inr (.inl ⟨op, hf, h⟩)
    · next hf =>
      split at h
      · next f hl => cases h; exact .inl ⟨f, hf, hl, rfl⟩
      · next op hl => exact .inr (.inr ⟨op, hf, hl, h⟩)

/-- If a hart's whole call answers a next state, it is `execute`'s with the driver's halt (R112). -/
theorem runHart_next {s t : State} (h : runHart s = .next t) : ∃ u, execute s = .next u ∧ t = u.haltOnTrap :=
  driver_next h

/-- If a hart's event answers a next state, it remembered the fetched Operation or ran to the end of the call (R55). -/
theorem eventHart_next {s t : State} (h : eventHart s = .next t) :
    (∃ op, s.hart.fetched = none ∧ loadInstruction s = .ok op ∧ t = s.setFetched (some op)) ∨ runHart s = .next t := by
  unfold eventHart at h
  split at h
  · exact .inr h
  · next hf =>
    split at h
    · exact .inr h
    · next op hl => cases h; exact .inl ⟨op, hf, hl, rfl⟩

/-! ### One step of the system -/

/-- An action on hart k happens with hart k in focus. -/
theorem onHart_next {k : Nat} {s t : State} {act : State → Host.Outcome State Fault Refusal}
    (h : onHart k s act = .next t) : ∃ u, s.focus k = some u ∧ act u = .next t := by
  unfold onHart at h
  split at h
  · cases h
  · next u hu => exact ⟨u, hu, h⟩

/-- An action between calls happens with hart k in focus and no `execute` in progress on it. -/
theorem betweenCalls_next {k : Nat} {s t : State} {act : State → Host.Outcome State Fault Refusal}
    (h : betweenCalls k s act = .next t) : ∃ u, s.focus k = some u ∧ u.hart.fetched = none ∧ act u = .next t := by
  obtain ⟨u, hu, h⟩ := onHart_next h
  split at h
  · cases h
  · next hf => exact ⟨u, hu, by simpa using hf, h⟩

/-- A hart listed as movable is a hart of the list that can move. -/
theorem canMove_of_mem_movableFrom {hs : List Hart} {j k : Nat} (h : k ∈ movableFrom j hs) :
    ∃ n x, k = j + n ∧ hs[n]? = some x ∧ x.canMove = true := by
  induction hs generalizing j with
  | nil => cases h
  | cons x xs ih =>
    have later (h : k ∈ movableFrom (j + 1) xs) : ∃ n y, k = j + n ∧ (x :: xs)[n]? = some y ∧ y.canMove = true := by
      obtain ⟨n, y, hk, hy, hm⟩ := ih h
      exact ⟨n + 1, y, by omega, hy, hm⟩
    unfold movableFrom at h
    split at h
    · next hx =>
      obtain rfl | h := List.mem_cons.mp h
      · exact ⟨0, x, rfl, rfl, hx⟩
      · exact later h
    · exact later h

/-- A hart chosen among the movable ones can move. -/
theorem State.canMove_of_focus {s u : State} {k : Nat} (hu : s.focus k = some u) (hk : k ∈ movableFrom 0 s.harts) :
    u.hart.canMove = true := by
  obtain ⟨n, x, hn, hx, hm⟩ := canMove_of_mem_movableFrom hk
  obtain ⟨-, -, -, -, -, hhart, -⟩ := focus_harts hu
  obtain rfl : k = n := by omega
  rwa [← Option.some.inj (hx.symm.trans hhart)]

/-- Everything a step can do with hart k in focus in state `u`, by the input that asked for it; without an input the move
is free. -/
inductive FocusMove (k : Nat) (u : State) : Option Input → State → Prop where
  | run {i t} (hi : i = none ∨ i = some (.run k)) (hm : u.hart.canMove = true) (h : runHart u = .next t) :
      FocusMove k u i t
  | event {i t} (hi : i = none ∨ i = some (.event k)) (hm : u.hart.canMove = true) (h : eventHart u = .next t) :
      FocusMove k u i t
  | idle {i} (hi : i = .run k ∨ i = .event k) (hm : u.hart.canMove = false) : FocusMove k u (some i) u
  | call {op t} (hf : u.hart.fetched = none) (h : executeOp op u = .next t) : FocusMove k u (some (.call k op)) t
  | contextSwitch (hf : u.hart.fetched = none) : FocusMove k u (some (.contextSwitch k)) (u.setResv none)
  | resume {pc} (hf : u.hart.fetched = none) : FocusMove k u (some (.resume k pc)) (u.resumeAt pc)
  | csrUnit {unit} : FocusMove k u (some (.csrUnit k unit)) (u.setCsrs unit)

/-- Everything an input can do: a move of the hart it names, the reset, or a store by an agent that is no hart. -/
theorem applyInput_next {i : Input} {s t : State} (h : applyInput i s = .next t) :
    (∃ k u, s.focus k = some u ∧ FocusMove k u (some i) t) ∨
    (i = .reset ∧ (∀ x ∈ s.harts, x.fetched = none) ∧ t = s.resetInput) ∨
    (∃ addr w v, i = .agentWrite addr w v ∧
      (t = s ∨ AccessOk s addr w [.write] ∧ t = storeBytes s addr w v)) := by
  cases i with
  | run k =>
    obtain ⟨u, hu, h⟩ := onHart_next h
    refine .inl ⟨k, u, hu, ?_⟩
    split at h
    · next hm => exact .run (.inr rfl) hm h
    · next hm => cases h; exact .idle (.inl rfl) (by simpa using hm)
  | event k =>
    obtain ⟨u, hu, h⟩ := onHart_next h
    refine .inl ⟨k, u, hu, ?_⟩
    split at h
    · next hm => exact .event (.inr rfl) hm h
    · next hm => cases h; exact .idle (.inr rfl) (by simpa using hm)
  | call k op =>
    obtain ⟨u, hu, hf, h⟩ := betweenCalls_next h
    exact .inl ⟨k, u, hu, .call hf h⟩
  | contextSwitch k =>
    obtain ⟨u, hu, hf, h⟩ := betweenCalls_next h
    cases h
    exact .inl ⟨k, u, hu, .contextSwitch hf⟩
  | resume k pc =>
    obtain ⟨u, hu, hf, h⟩ := betweenCalls_next h
    cases h
    exact .inl ⟨k, u, hu, .resume hf⟩
  | csrUnit k unit =>
    obtain ⟨u, hu, h⟩ := onHart_next h
    cases h
    exact .inl ⟨k, u, hu, .csrUnit⟩
  | reset =>
    dsimp only [applyInput] at h
    split at h
    · cases h
    · next hf => cases h; exact .inr (.inl ⟨rfl, by simpa using hf, rfl⟩)
  | agentWrite addr w v =>
    refine .inr (.inr ⟨addr, w, v, rfl, ?_⟩)
    dsimp only [applyInput] at h
    obtain ⟨f, -, e⟩ | ⟨ha, e⟩ := memWrite_cases s addr w v <;> rw [e] at h <;> cases h
    · exact .inl rfl
    · exact .inr ⟨ha, rfl⟩

/-- With nothing queued, some hart that can move runs a whole call or one event (R55, R112). -/
theorem freeMove_next {tick : Nat} {s t : State} (h : freeMove tick s = .next t) :
    ∃ k u, s.focus k = some u ∧ FocusMove k u none t := by
  unfold freeMove at h
  split at h
  · split at h <;> cases h
  · next k hk =>
    obtain ⟨u, hu, h⟩ := onHart_next h
    exact ⟨k, u, hu, .run (.inl rfl) (State.canMove_of_focus hu (by simp [hk])) h⟩
  · next k k' ks hk =>
    obtain ⟨u, hu, h⟩ := onHart_next h
    have hlt : Config.freeHart tick % (ks.length + 2) < (k :: k' :: ks).length := Nat.mod_lt _ (by omega)
    have hmem : (k :: k' :: ks).getD (Config.freeHart tick % (ks.length + 2)) k ∈ movableFrom 0 s.harts := by
      rw [hk, List.getD_eq_getElem _ _ hlt]
      exact List.getElem_mem hlt
    refine ⟨_, u, hu, ?_⟩
    split at h
    · exact .event (.inl rfl) (State.canMove_of_focus hu hmem) h
    · exact .run (.inl rfl) (State.canMove_of_focus hu hmem) h

/-- Everything a step can do: a move of one hart, the reset, or a store by an agent that is no hart. -/
theorem step_next {s t : State} (h : step s = .next t) :
    (∃ k u, s.begin.focus k = some u ∧ FocusMove k u s.inputs.head? t) ∨
    (s.inputs.head? = some .reset ∧ (∀ x ∈ s.harts, x.fetched = none) ∧ t = s.begin.resetInput) ∨
    (∃ addr w v, s.inputs.head? = some (.agentWrite addr w v) ∧
      (t = s.begin ∨ AccessOk s addr w [.write] ∧ t = storeBytes s.begin addr w v)) := by
  unfold step systemStep at h
  split at h
  · next i is hi =>
    rw [hi, List.head?_cons]
    obtain hm | ⟨rfl, hf, ht⟩ | ⟨addr, w, v, rfl, ht | ⟨ha, ht⟩⟩ := applyInput_next h
    · exact .inl hm
    · exact .inr (.inl ⟨rfl, hf, ht⟩)
    · exact .inr (.inr ⟨addr, w, v, rfl, .inl ht⟩)
    · exact .inr (.inr ⟨addr, w, v, rfl, .inr ⟨⟨ha.aligned, ha.served⟩, ht⟩⟩)
  · next hi =>
    rw [hi, List.head?_nil]
    exact .inl (freeMove_next h)

end Sys2Proof.Machine
end

section
/-! CERTIFICATE. No step writes a parameter (R9, R31, R33). -/

namespace Sys2Proof.Machine

/-- The parameters a state carries: the configuration and RESET_PC of every hart, in number order (R8, R31, R33). -/
def State.parameters (s : State) : Config × List Word := (s.cfg, s.harts.map Hart.resetPc)

/-! ### The operations on the state keep the parameters -/

/-- A change of the hart in focus that keeps its RESET_PC keeps the parameters. -/
theorem State.parameters_congr {s t : State} (hcfg : t.cfg = s.cfg) (hbelow : t.below = s.below)
    (hpc : t.hart.resetPc = s.hart.resetPc) (habove : t.above = s.above) : t.parameters = s.parameters := by
  simp [parameters, harts, hcfg, hbelow, hpc, habove]

section
variable (s : State)

@[simp] theorem State.parameters_setReg (r : Reg) (v : Word) : (s.setReg r v).parameters = s.parameters :=
  parameters_congr rfl rfl rfl rfl
@[simp] theorem State.parameters_setPc (t : Word) : (s.setPc t).parameters = s.parameters :=
  parameters_congr rfl rfl rfl rfl
@[simp] theorem State.parameters_setResv (r : Option Reservation) : (s.setResv r).parameters = s.parameters :=
  parameters_congr rfl rfl rfl rfl
@[simp] theorem State.parameters_setOutcome (o : Option Conclusion) : (s.setOutcome o).parameters = s.parameters :=
  parameters_congr rfl rfl rfl rfl
@[simp] theorem State.parameters_setCsrs (cs : CsrUnit) : (s.setCsrs cs).parameters = s.parameters :=
  parameters_congr rfl rfl rfl rfl
@[simp] theorem State.parameters_setFetched (o : Option Operation) : (s.setFetched o).parameters = s.parameters :=
  parameters_congr rfl rfl rfl rfl
@[simp] theorem State.parameters_takeTrap (c : Cause) (v : Word) : (s.takeTrap c v).parameters = s.parameters :=
  parameters_congr rfl rfl rfl rfl
@[simp] theorem State.parameters_raiseDefect : s.raiseDefect.parameters = s.parameters :=
  parameters_congr rfl rfl rfl rfl
@[simp] theorem State.parameters_resumeAt (pc : Word) : (s.resumeAt pc).parameters = s.parameters :=
  parameters_congr rfl rfl rfl rfl
@[simp] theorem State.parameters_begin : s.begin.parameters = s.parameters :=
  parameters_congr rfl rfl rfl rfl
@[simp] theorem State.parameters_haltOnTrap : s.haltOnTrap.parameters = s.parameters :=
  parameters_congr (by simp) (by simp) (by simp) (by simp)

/-- A store changes other harts too, but only their reservations (R45). -/
@[simp] theorem State.parameters_storeBytes (addr : Word) (w : Width) (v : Word) :
    (storeBytes s addr w v).parameters = s.parameters := by
  simp [parameters, Function.comp_def]

/-- The reset input reads a hart's RESET_PC and does not write it (R340). -/
@[simp] theorem Hart.resetInput_resetPc (tick k : Nat) (h : Hart) : (h.resetInput tick k).resetPc = h.resetPc := rfl

@[simp] theorem map_resetPc_mapIdx_resetInput (tick : Nat) (number : Nat → Nat) (hs : List Hart) :
    (hs.mapIdx fun k h => h.resetInput tick (number k)).map Hart.resetPc = hs.map Hart.resetPc :=
  List.ext_getElem (by simp) (by simp)

@[simp] theorem State.parameters_resetInput : s.resetInput.parameters = s.parameters := by
  simp [parameters, harts, resetInput, map_resetPc_mapIdx_resetInput s.tick (fun k => k)]

end

/-- Putting another hart in focus keeps the parameters (R328). -/
theorem State.parameters_focus {s u : State} {k : Nat} (h : s.focus k = some u) : u.parameters = s.parameters := by
  obtain ⟨hharts, hcfg, -⟩ := focus_harts h
  rw [parameters, parameters, hharts, hcfg]

/-! ### A call, a hart's move and a step keep the parameters -/

/-- Whatever a handler answers, the engine ends the call with the parameters as they were. -/
theorem parameters_retire {s : State} {cap : Capability} {r : Result} (h : HandlerAnswer s cap r) :
    (retire s r).parameters = s.parameters := by
  cases h <;> simp [retire]

theorem parameters_executeOp {op : Operation} {s t : State} (h : executeOp op s = .next t) :
    t.parameters = s.parameters := by
  obtain ⟨-, cap, ⟨-, rfl⟩ | ⟨-, r, hr, rfl⟩⟩ := executeOp_next h
  · exact s.parameters_raiseDefect
  · exact parameters_retire hr

theorem parameters_runHart {s t : State} (h : runHart s = .next t) : t.parameters = s.parameters := by
  obtain ⟨u, hu, rfl⟩ := runHart_next h
  rw [u.parameters_haltOnTrap]
  obtain ⟨-, ⟨f, -, -, rfl⟩ | ⟨op, -, hop⟩ | ⟨op, -, -, hop⟩⟩ := execute_next hu
  · exact s.parameters_takeTrap _ _
  · rw [parameters_executeOp hop, s.parameters_setFetched]
  · exact parameters_executeOp hop

theorem parameters_eventHart {s t : State} (h : eventHart s = .next t) : t.parameters = s.parameters := by
  obtain ⟨op, -, -, rfl⟩ | h := eventHart_next h
  · exact s.parameters_setFetched _
  · exact parameters_runHart h

theorem parameters_focusMove {k : Nat} {u t : State} {i : Option Input} (h : FocusMove k u i t) :
    t.parameters = u.parameters := by
  cases h with
  | run _ _ h => exact parameters_runHart h
  | event _ _ h => exact parameters_eventHart h
  | call _ h => exact parameters_executeOp h
  | idle => rfl
  | contextSwitch => exact u.parameters_setResv none
  | resume => exact u.parameters_resumeAt _
  | csrUnit => exact u.parameters_setCsrs _

theorem parameters_step {s t : State} (h : step s = .next t) : t.parameters = s.parameters := by
  obtain ⟨k, u, hu, hm⟩ | ⟨-, -, rfl⟩ | ⟨addr, w, v, -, rfl | ⟨-, rfl⟩⟩ := step_next h
  · rw [parameters_focusMove hm, State.parameters_focus hu, s.parameters_begin]
  all_goals simp

/-- Settles O58: what a step can do is a move of one hart, the reset or an agent's store, and each keeps the parameters. -/
theorem stepKeepsTheParameters : Obligations.StepKeepsTheParameters :=
  fun _ _ h => Prod.mk.inj (parameters_step h)

end Sys2Proof.Machine
end

section
/-! CERTIFICATE. Every step keeps the invariant (R25, R26, R33, R74). -/

namespace Sys2Proof.Machine

/-! ### Alignment -/

/-- The check of a jump target (R151) is that the target is a multiple of 4. -/
theorem aligned_of_lowBits {t : Word} (h : t.extractLsb' 0 2 = 0#2) : t.toNat % 4 = 0 := by
  simpa using congrArg BitVec.toNat h

/-- The pc after an instruction that continues is a multiple of 4 again, past the top of the address space too. -/
theorem aligned_add_four {a : Word} (h : a.toNat % 4 = 0) : (a + 4).toNat % 4 = 0 := by
  have h4 : (4 : Word).toNat = 4 := rfl
  rw [BitVec.toNat_add, h4]
  omega

/-! ### The decoder answers only what is built in (R74) -/

/-- A word that decodes to an instruction decodes to it in the full set, and its capability is built in. -/
theorem decodeWord_ok {cfg : Config} {w : Word} {i : Instr} (h : decodeWord cfg w = .ok i) :
    decodeFull w = .ok i ∧ cfg.has i.capability = true := by
  unfold decodeWord at h
  split at h
  · next j hj =>
    split at h
    · next hc => cases h; exact ⟨hj, hc⟩
    · cases h
  · cases h

theorem builtIn_decodeOperation (cfg : Config) (w : Word) : BuiltIn cfg (decodeOperation cfg w) := by
  unfold decodeOperation
  split
  · next i hi =>
    obtain ⟨hfull, hcap⟩ := decodeWord_ok hi
    intro j hj
    obtain rfl : i = j := Option.some.inj ((recordFits_decodeFull w i hfull).symm.trans hj)
    exact hcap
  · exact nofun

/-- A fetch that succeeds answers an Operation that sets no defect. -/
theorem builtIn_loadInstruction {s : State} {op : Operation} (h : loadInstruction s = .ok op) : BuiltIn s.cfg op := by
  unfold loadInstruction at h
  split at h
  · cases h
  · cases h; exact builtIn_decodeOperation _ _

/-! ### The operations on the state keep the invariant -/

/-- A store only takes reservations away (R45). -/
theorem Hart.Inv.dropOverlap {cfg : Config} {h : Hart} (hh : h.Inv cfg) (addr n : Nat) :
    (h.dropOverlap addr n).Inv cfg where
  pc := by simpa using hh.pc
  resetPc := by simpa using hh.resetPc
  resv r hr := by
    rw [Hart.dropOverlap_resv] at hr
    exact hh.resv r (Option.filter_eq_some_iff.mp hr).1
  fetched := by simpa using hh.fetched

/-- The reset input takes each pc from a RESET_PC, which is aligned, and leaves no reservation (R340). -/
theorem Hart.Inv.resetInput {cfg : Config} {h : Hart} (hh : h.Inv cfg) (tick k : Nat) : (h.resetInput tick k).Inv cfg :=
  ⟨hh.resetPc, hh.resetPc, nofun, nofun⟩

theorem State.Inv.hart {s : State} (hs : s.Inv) : s.hart.Inv s.cfg := hs.harts _ (by simp [State.harts])

/-- A change of the hart in focus to one that meets the hart's invariant. -/
theorem State.Inv.withHart {s : State} (hs : s.Inv) {h : Hart} (hh : h.Inv s.cfg) : { s with hart := h }.Inv where
  mem := hs.mem
  harts x hx := by
    have hx : x ∈ s.below ∨ x = h ∨ x ∈ s.above := by simpa [State.harts] using hx
    obtain hx | rfl | hx := hx
    · exact hs.harts x (by simp [State.harts, hx])
    · exact hh
    · exact hs.harts x (by simp [State.harts, hx])
  inputs := hs.inputs

section
variable {s : State} (hs : s.Inv)
include hs

theorem State.Inv.setReg (r : Reg) (v : Word) : (s.setReg r v).Inv := hs.withHart { hs.hart with }

theorem State.Inv.setPc {t : Word} (ht : t.toNat % 4 = 0) : (s.setPc t).Inv := hs.withHart { hs.hart with pc := ht }

theorem State.Inv.setResv_none : (s.setResv none).Inv := hs.withHart { hs.hart with resv := nofun }

/-- LR.W installs a reservation as R26 says. -/
theorem State.Inv.setResv_some {ea : Word} (hA : s.cfg.hasA = true) (ha : ea.toNat % 4 = 0) :
    (s.setResv (some ⟨ea, 4⟩)).Inv :=
  hs.withHart { hs.hart with resv := by rintro r ⟨⟩; exact ⟨hA, rfl, ha⟩ }

theorem State.Inv.setOutcome (o : Option Conclusion) : (s.setOutcome o).Inv := hs.withHart { hs.hart with }

theorem State.Inv.setCsrs (cs : CsrUnit) : (s.setCsrs cs).Inv := hs.withHart { hs.hart with }

theorem State.Inv.setFetched_none : (s.setFetched none).Inv := hs.withHart { hs.hart with fetched := nofun }

theorem State.Inv.setFetched_some {op : Operation} (h : BuiltIn s.cfg op) : (s.setFetched (some op)).Inv :=
  hs.withHart { hs.hart with fetched := by rintro o ⟨⟩; exact h }

theorem State.Inv.takeTrap (c : Cause) (v : Word) : (s.takeTrap c v).Inv := hs.setResv_none.setOutcome _

theorem State.Inv.raiseDefect : s.raiseDefect.Inv := hs.withHart { hs.hart with }

theorem State.Inv.resumeAt {pc : Word} (h : pc.toNat % 4 = 0) : (s.resumeAt pc).Inv :=
  hs.withHart { hs.hart with pc := h }

theorem State.Inv.haltOnTrap : s.haltOnTrap.Inv := by
  unfold State.haltOnTrap
  split
  · exact hs.withHart { hs.hart with }
  · exact hs

theorem State.Inv.storeBytes {addr : Word} {w : Width} (v : Word) (ha : addr.toNat % w.bytes = 0) :
    (storeBytes s addr w v).Inv where
  mem := storeBytes_wf s addr w v ha hs.mem
  harts x hx := by
    rw [storeBytes_harts] at hx
    obtain ⟨h, hh, rfl⟩ := List.mem_map.mp hx
    exact (hs.harts h hh).dropOverlap _ _
  inputs := hs.inputs

theorem State.Inv.begin : s.begin.Inv where
  mem := hs.mem
  harts := hs.harts
  inputs i hi := hs.inputs i (List.mem_of_mem_tail hi)

theorem State.Inv.focus {u : State} {k : Nat} (h : s.focus k = some u) : u.Inv := by
  obtain ⟨hharts, hcfg, hmem, hinputs, -⟩ := State.focus_harts h
  exact ⟨hmem ▸ hs.mem, by rw [hharts, hcfg]; exact hs.harts, hinputs ▸ hs.inputs⟩

theorem State.Inv.resetInput : s.resetInput.Inv where
  mem := hs.mem
  harts x hx := by
    have origin : ∃ h ∈ s.harts, ∃ k, x = h.resetInput s.tick k := by
      simp only [State.harts, State.resetInput, List.mem_append, List.mem_cons, List.mem_mapIdx] at hx
      obtain ⟨k, hk, rfl⟩ | rfl | ⟨k, hk, rfl⟩ := hx
      · exact ⟨_, by simp [State.harts], k, rfl⟩
      · exact ⟨_, by simp [State.harts], _, rfl⟩
      · exact ⟨_, by simp [State.harts], _, rfl⟩
    obtain ⟨h, hh, k, rfl⟩ := origin
    exact (hs.harts h hh).resetInput _ _
  inputs := hs.inputs

end

/-! ### A call, a hart's move and a step keep the invariant -/

/-- The state a handler answers with meets the invariant. -/
def Result.Inv : Result → Prop
  | .cont u | .jump _ u => u.Inv
  | .trap .. => True

theorem HandlerAnswer.inv {s : State} {cap : Capability} {r : Result} (hs : s.Inv) (hcap : s.cfg.has cap = true)
    (h : HandlerAnswer s cap r) : r.Inv := by
  cases h with
  | nothing => exact hs
  | writeReg rd v => exact hs.setReg rd v
  | trap => trivial
  | jump t ht => exact hs.setPc (aligned_of_lowBits ht)
  | link rd t ht => exact (hs.setReg rd _).setPc (aligned_of_lowBits ht)
  | store addr w v ha => exact hs.storeBytes v ha.aligned
  | csrWritten cs => exact hs.setCsrs cs
  | csrRead cs rd old => exact (hs.setCsrs cs).setReg rd old
  | reserve ea rd v ha => exact (hs.setResv_some hcap ha.aligned).setReg rd v
  | conditionalStore ea rd v hr ha => exact (hs.storeBytes v ha.aligned).setResv_none.setReg rd 0
  | update addr rd old v ha => exact (hs.storeBytes v ha.aligned).setReg rd old

/-- The engine's pc policy keeps the invariant of the state the handler answered with. -/
theorem State.Inv.retire {s : State} {r : Result} (hs : s.Inv) (hr : r.Inv) : (retire s r).Inv := by
  cases r with
  | cont u =>
    have hu : u.Inv := hr
    exact (hu.setPc (aligned_add_four hu.hart.pc)).setOutcome _
  | jump t u =>
    have hu : u.Inv := hr
    exact hu.setOutcome _
  | trap c v => exact hs.takeTrap c v

theorem State.Inv.executeOp {op : Operation} {s t : State} (hs : s.Inv) (h : executeOp op s = .next t) : t.Inv := by
  obtain ⟨-, cap, ⟨-, rfl⟩ | ⟨hcap, r, hr, rfl⟩⟩ := executeOp_next h
  · exact hs.raiseDefect
  · exact hs.retire (hr.inv hs hcap)

theorem State.Inv.runHart {s t : State} (hs : s.Inv) (h : runHart s = .next t) : t.Inv := by
  obtain ⟨u, hu, rfl⟩ := runHart_next h
  obtain ⟨-, ⟨f, -, -, rfl⟩ | ⟨op, -, hop⟩ | ⟨op, -, -, hop⟩⟩ := execute_next hu
  · exact (hs.takeTrap _ _).haltOnTrap
  · exact (hs.setFetched_none.executeOp hop).haltOnTrap
  · exact (hs.executeOp hop).haltOnTrap

theorem State.Inv.eventHart {s t : State} (hs : s.Inv) (h : eventHart s = .next t) : t.Inv := by
  obtain ⟨op, -, hop, rfl⟩ | h := eventHart_next h
  · exact hs.setFetched_some (builtIn_loadInstruction hop)
  · exact hs.runHart h

/-- A move of one hart keeps the invariant where the input that asked for it resumes at a multiple of 4, if at all. -/
theorem State.Inv.focusMove {k : Nat} {u t : State} {i : Option Input} (hu : u.Inv) (hi : ∀ j, i = some j → j.Aligned)
    (h : FocusMove k u i t) : t.Inv := by
  cases h with
  | run _ _ h => exact hu.runHart h
  | event _ _ h => exact hu.eventHart h
  | call _ h => exact hu.executeOp h
  | idle => exact hu
  | contextSwitch => exact hu.setResv_none
  | resume => exact hu.resumeAt (hi _ rfl)
  | csrUnit => exact hu.setCsrs _

/-- Settles O57: what a step can do is a move of one hart, the reset or an agent's store, and each keeps the invariant. -/
theorem stepKeepsTheInvariant : Obligations.StepKeepsTheInvariant := by
  intro s t hs h
  obtain ⟨k, u, hu, hm⟩ | ⟨-, -, rfl⟩ | ⟨addr, w, v, -, rfl | ⟨ha, rfl⟩⟩ := step_next h
  · exact (hs.begin.focus hu).focusMove (fun j hj => hs.inputs j (List.mem_of_mem_head? hj)) hm
  · exact hs.begin.resetInput
  · exact hs.begin
  · exact hs.begin.storeBytes v ha.aligned

end Sys2Proof.Machine
end

section
/-! CERTIFICATE. What one instruction may change: its destination register (R23), pc by its Outcome (R24), the reservations
of other harts (R20, R27), and the CSR file only by a CSR instruction (R29). -/

namespace Sys2Proof.Machine

/-! ### Registers (R21, R23) -/

theorem regsKept_refl (s : State) (dest : Option Reg) : RegsKept s s dest := fun _ _ => rfl

theorem RegsKept.setReg {s u : State} {rd : Reg} (h : RegsKept s u (some rd)) (v : Word) :
    RegsKept s (u.setReg rd v) (some rd) := fun r hr => by
  rw [State.reg_setReg_ne u v fun e => hr (congrArg some e.symm), h r hr]

theorem RegsKept.storeBytes {s u : State} {dest : Option Reg} (h : RegsKept s u dest) (addr : Word) (w : Width)
    (v : Word) : RegsKept s (storeBytes u addr w v) dest := fun r hr => by rw [storeBytes_reg, h r hr]

/-- The state a handler answers with differs from `s` in the registers by the destination at most. -/
def Result.KeepsRegs (s : State) (dest : Option Reg) : Result → Prop
  | .cont u | .jump _ u => RegsKept s u dest
  | .trap .. => True

section
variable (s : State)

theorem keepsRegs_jumpAndLink (rd : Reg) (t : Word) : (jumpAndLink rd t s).KeepsRegs s (some rd) := by
  unfold jumpAndLink
  split
  · trivial
  · exact (regsKept_refl s _).setReg _

theorem keepsRegs_branch (cond : Word → Word → Bool) (rs1 rs2 : Reg) (imm : Word) :
    (branch cond rs1 rs2 imm s).KeepsRegs s none := by
  unfold branch
  split
  · dsimp only
    split
    · trivial
    · exact regsKept_refl s none
  · exact regsKept_refl s none

theorem keepsRegs_load (w : Width) (ext : Word → Word) (rd rs1 : Reg) (imm : Word) :
    (load w ext rd rs1 imm s).KeepsRegs s (some rd) := by
  unfold load
  split
  · trivial
  · exact (regsKept_refl s _).setReg _

theorem keepsRegs_store (w : Width) (rs1 rs2 : Reg) (imm : Word) :
    (store w rs1 rs2 imm s).KeepsRegs s none := by
  unfold store
  obtain ⟨f, -, e⟩ | ⟨-, e⟩ := memWrite_cases s (effAddr s rs1 imm) w (s.reg rs2) <;> rw [e]
  · trivial
  · exact (regsKept_refl s _).storeBytes _ _ _

theorem keepsRegs_csrAccess (doRead doWrite : Bool) (new : Word → Word → Word) (src : Word) (rd : Reg)
    (csr : CsrAddr) (raw : Word) : (csrAccess doRead doWrite new src rd csr raw s).KeepsRegs s (some rd) := by
  unfold csrAccess
  split
  · trivial
  · split
    · split
      · trivial
      · refine RegsKept.setReg (fun r _ => ?_) _
        split <;> simp
    · intro r _
      split <;> simp

theorem keepsRegs_amo (f : Word → Word → Word) (rd rs1 rs2 : Reg) : (amo f rd rs1 rs2 s).KeepsRegs s (some rd) := by
  unfold amo
  obtain ⟨e, -, h⟩ | ⟨-, h⟩ := memAmo_cases s (s.reg rs1) f (s.reg rs2) <;> rw [h]
  · trivial
  · exact ((regsKept_refl s _).storeBytes _ _ _).setReg _

theorem keepsRegs_loadReserved (rd rs1 : Reg) : (loadReserved rd rs1 s).KeepsRegs s (some rd) := by
  unfold loadReserved
  dsimp only
  split
  · trivial
  · exact (regsKept_refl s _).setReg _

theorem keepsRegs_storeConditional (rd rs1 rs2 : Reg) : (storeConditional rd rs1 rs2 s).KeepsRegs s (some rd) := by
  unfold storeConditional
  dsimp only
  split
  · trivial
  · split
    · obtain ⟨f, -, e⟩ | ⟨-, e⟩ := memWrite_cases s (s.reg rs1) .word (s.reg rs2) <;> rw [e]
      · trivial
      · exact ((regsKept_refl s _).storeBytes _ _ _).setReg _
    · exact (regsKept_refl s _).setReg _

/-- `exec` is the engine around a handler that writes at most the register its instruction names (R23). -/
theorem exec_eq_runOp_keepsRegs (i : Instr) :
    ∃ handler, exec i s = runOp i.capability s handler ∧ (handler s).KeepsRegs s i.dest := by
  cases i with
  | fence | fenceI => exact ⟨_, rfl, regsKept_refl s none⟩
  | ecall => exact ⟨fun _ => .trap .environmentCall 0, rfl, trivial⟩
  | ebreak => exact ⟨fun s => .trap .breakpoint s.hart.pc, rfl, trivial⟩
  | lui rd imm => exact ⟨fun s => .cont (s.setReg rd imm), rfl, (regsKept_refl s _).setReg _⟩
  | auipc rd imm => exact ⟨fun s => .cont (s.setReg rd (s.hart.pc + imm)), rfl, (regsKept_refl s _).setReg _⟩
  | addi | slti | sltiu | xori | ori | andi | slli | srli | srai
  | add | sub | sll | slt | sltu | xor | srl | sra | or | and
  | mul | mulh | mulhsu | mulhu | div | divu | rem | remu => exact ⟨_, rfl, (regsKept_refl s _).setReg _⟩
  | jal | jalr => exact ⟨_, rfl, keepsRegs_jumpAndLink s _ _⟩
  | beq | bne | blt | bge | bltu | bgeu => exact ⟨_, rfl, keepsRegs_branch s _ _ _ _⟩
  | lb | lh | lw | lbu | lhu => exact ⟨_, rfl, keepsRegs_load s _ _ _ _ _⟩
  | sb | sh | sw => exact ⟨_, rfl, keepsRegs_store s _ _ _ _⟩
  | csrrw | csrrs | csrrc | csrrwi | csrrsi | csrrci => exact ⟨_, rfl, keepsRegs_csrAccess s _ _ _ _ _ _ _⟩
  | lrW => exact ⟨_, rfl, keepsRegs_loadReserved s _ _⟩
  | scW => exact ⟨_, rfl, keepsRegs_storeConditional s _ _ _⟩
  | amoswapW | amoaddW | amoxorW | amoandW | amoorW | amominW | amomaxW | amominuW | amomaxuW =>
    exact ⟨_, rfl, keepsRegs_amo s _ _ _ _⟩

end

/-- If `execute_op` answers a next state, it is the one with the defect flag set or what the engine makes of a result that
keeps every register but the named destination. -/
theorem executeOp_keepsRegs {op : Operation} {s t : State} (h : executeOp op s = .next t) :
    t = s.raiseDefect ∨ ∃ r : Result, r.KeepsRegs s (destOf op) ∧ t = retire s r := by
  obtain ⟨cap, handler, e, hk⟩ :
      ∃ cap handler, executeOp op s = runOp cap s handler ∧ (handler s).KeepsRegs s (destOf op) := by
    unfold executeOp destOf
    split
    · next i hi => rw [hi]; exact ⟨i.capability, exec_eq_runOp_keepsRegs s i⟩
    · exact ⟨.base, fun _ => .trap .illegalInstruction op.raw, rfl, trivial⟩
  obtain ⟨-, ⟨-, ht⟩ | ⟨-, ht⟩⟩ := runOp_next (e ▸ h)
  · exact .inl ht
  · exact .inr ⟨_, hk, ht⟩

/-- Settles O36: the pc policy writes no register, and only a handler that ends with a trap, which has written nothing,
gives the Outcome Trap. -/
theorem onlyTheDestinationIsWritten : Obligations.OnlyTheDestinationIsWritten := by
  intro op s t h
  suffices RegsKept s t (destOf op) ∧ ∀ c v, t.hart.outcome = some (.trapped c v) → RegsKept s t none from
    ⟨this.1, s.reg_zero, t.reg_zero, this.2⟩
  obtain rfl | ⟨r, hr, rfl⟩ := executeOp_keepsRegs h
  · exact ⟨regsKept_refl s _, nofun⟩
  · cases r with
    | cont u => exact ⟨hr, nofun⟩
    | jump a u => exact ⟨hr, nofun⟩
    | trap c v => exact ⟨regsKept_refl s _, fun _ _ _ => regsKept_refl s _⟩

/-! ### pc (R24, R105 to R107) -/

/-- The pc a handler leaves to the engine's policy: as it was, or, on a jump, the target, which is a multiple of 4. -/
def Result.PcFits (s : State) : Result → Prop
  | .cont u => u.hart.pc = s.hart.pc
  | .jump a u => u.hart.pc = a ∧ a.toNat % 4 = 0
  | .trap .. => True

theorem HandlerAnswer.pcFits {s : State} {cap : Capability} {r : Result} (h : HandlerAnswer s cap r) : r.PcFits s := by
  cases h with
  | jump t ht | link rd t ht => exact ⟨rfl, aligned_of_lowBits ht⟩
  | store | conditionalStore | update => simp [Result.PcFits]
  | nothing | writeReg | csrWritten | csrRead | reserve => rfl
  | trap => trivial

/-- Settles O37, by the way the handler ended. -/
theorem pcFollowsTheOutcome : Obligations.PcFollowsTheOutcome := by
  intro op s t h
  obtain ⟨-, cap, ⟨-, rfl⟩ | ⟨-, r, hr, rfl⟩⟩ := executeOp_next h
  · exact ⟨nofun, nofun, nofun, fun _ => rfl⟩
  · have hpc := hr.pcFits
    cases r with
    | cont u => exact ⟨fun _ => congrArg (· + 4) hpc, nofun, nofun, nofun⟩
    | jump a u => exact ⟨nofun, by rintro a ⟨⟩; exact hpc, nofun, nofun⟩
    | trap c v => exact ⟨nofun, nofun, fun _ _ _ => rfl, nofun⟩

/-! ### Other harts (R20, R27, R45, R328) -/

/-- A hart that another hart's instruction reaches loses its reservation at most. -/
def Hart.LosesSlot (h h' : Hart) : Prop := h.SameButSlot h' ∧ (h'.resv = h.resv ∨ h'.resv = none)

theorem Hart.losesSlot_refl (h : Hart) : h.LosesSlot h := ⟨rfl, .inl rfl⟩

theorem Hart.losesSlot_dropOverlap (addr n : Nat) (h : Hart) : h.LosesSlot (h.dropOverlap addr n) := by
  refine ⟨(seesStore_dropOverlap addr n h).1, ?_⟩
  rw [Hart.dropOverlap_resv]
  cases hr : h.resv with
  | none => exact .inl rfl
  | some r => cases ho : r.overlaps addr n <;> simp [ho]

/-- From `s` to `t` the harts not in focus lose their reservations at most, and no parameter changes. -/
structure OthersLoseSlots (s t : State) : Prop where
  below : List.Forall₂ Hart.LosesSlot s.below t.below
  above : List.Forall₂ Hart.LosesSlot s.above t.above
  system : SameSystem s t

/-- What changes the hart in focus and memory only leaves the other harts as they are. -/
theorem othersLoseSlots_of_eq {s t : State} (hbelow : t.below = s.below) (habove : t.above = s.above)
    (hsystem : SameSystem s t) : OthersLoseSlots s t where
  below := hbelow ▸ List.forall₂_same.mpr fun h _ => h.losesSlot_refl
  above := habove ▸ List.forall₂_same.mpr fun h _ => h.losesSlot_refl
  system := hsystem

theorem othersLoseSlots_storeBytes (s : State) (addr : Word) (w : Width) (v : Word) :
    OthersLoseSlots s (storeBytes s addr w v) where
  below := List.forall₂_map_right_iff.mpr (List.forall₂_same.mpr fun h _ => h.losesSlot_dropOverlap _ _)
  above := List.forall₂_map_right_iff.mpr (List.forall₂_same.mpr fun h _ => h.losesSlot_dropOverlap _ _)
  system := ⟨rfl, rfl, rfl⟩

/-- What follows on the hart in focus changes nothing of what the other harts lost. -/
theorem OthersLoseSlots.trans_eq {s t u : State} (h : OthersLoseSlots s t) (hbelow : u.below = t.below)
    (habove : u.above = t.above) (hsystem : SameSystem t u) : OthersLoseSlots s u where
  below := hbelow ▸ h.below
  above := habove ▸ h.above
  system := ⟨hsystem.cfg.trans h.system.cfg, hsystem.inputs.trans h.system.inputs, hsystem.tick.trans h.system.tick⟩

theorem HandlerAnswer.othersLoseSlots {s : State} {cap : Capability} {r : Result} (h : HandlerAnswer s cap r) :
    OthersLoseSlots s (retire s r) := by
  cases h with
  | store addr w v | conditionalStore addr _ v | update addr _ _ v =>
    exact (othersLoseSlots_storeBytes s addr _ v).trans_eq rfl rfl ⟨rfl, rfl, rfl⟩
  | nothing | writeReg | trap | jump | link | csrWritten | csrRead | reserve =>
    exact othersLoseSlots_of_eq rfl rfl ⟨rfl, rfl, rfl⟩

/-- If the engine around a handler answers a next state, the other harts lose their reservations at most. -/
theorem runOp_othersLoseSlots {cap : Capability} {s t : State} {handler : State → Result}
    (ha : HandlerAnswer s cap (handler s)) (h : runOp cap s handler = .next t) : OthersLoseSlots s t := by
  obtain ⟨-, ⟨-, rfl⟩ | ⟨-, rfl⟩⟩ := runOp_next h
  · exact othersLoseSlots_of_eq rfl rfl ⟨rfl, rfl, rfl⟩
  · exact ha.othersLoseSlots

theorem exec_othersLoseSlots {i : Instr} {s t : State} (h : exec i s = .next t) : OthersLoseSlots s t := by
  obtain ⟨handler, e, ha⟩ := exec_eq_runOp s i
  exact runOp_othersLoseSlots ha (e ▸ h)

/-- Settles O39: only the store path reaches other harts, and it takes reservations away. -/
theorem otherHartsOnlyLoseReservations : Obligations.OtherHartsOnlyLoseReservations := by
  intro i s t h
  obtain ⟨hbelow, habove, hsystem⟩ := exec_othersLoseSlots h
  exact ⟨hbelow, habove, hsystem⟩

/-! ### The CSR file (R29, R311) -/

theorem HandlerAnswer.csrs_retire {s : State} {cap : Capability} {r : Result} (h : HandlerAnswer s cap r)
    (hcap : cap ≠ .zicsr) : (retire s r).hart.csrs = s.hart.csrs := by
  cases h with
  | csrWritten | csrRead => exact absurd rfl hcap
  | store | conditionalStore | update => simp [retire]
  | nothing | writeReg | trap | jump | link | reserve => rfl

/-- Settles O40: only the handlers of the CSR instructions answer with another CSR file. -/
theorem onlyCsrInstructionsWriteCsrs : Obligations.OnlyCsrInstructionsWriteCsrs := by
  intro i s t h hcap
  obtain ⟨handler, e, ha⟩ := exec_eq_runOp s i
  obtain ⟨-, ⟨-, rfl⟩ | ⟨-, rfl⟩⟩ := runOp_next (e ▸ h)
  · rfl
  · exact ha.csrs_retire hcap

end Sys2Proof.Machine
end

section
/-! CERTIFICATE. The defect flag is sticky (R28), and what the invariant says of a fetch (R25) and of the state after reset
(R33, R341). -/

namespace Sys2Proof.Machine

/-! ### What a call leaves of the other harts -/

theorem executeOp_othersLoseSlots {op : Operation} {s t : State} (h : executeOp op s = .next t) :
    OthersLoseSlots s t := by
  unfold executeOp at h
  split at h
  · exact exec_othersLoseSlots h
  · exact runOp_othersLoseSlots (.trap _ _) h

theorem execute_othersLoseSlots {s t : State} (h : execute s = .next t) : OthersLoseSlots s t := by
  obtain ⟨-, ⟨f, -, -, rfl⟩ | ⟨op, -, hop⟩ | ⟨op, -, -, hop⟩⟩ := execute_next h
  · exact othersLoseSlots_of_eq rfl rfl ⟨rfl, rfl, rfl⟩
  · obtain ⟨hbelow, habove, hcfg, hinputs, htick⟩ := executeOp_othersLoseSlots hop
    exact ⟨hbelow, habove, hcfg, hinputs, htick⟩
  · exact executeOp_othersLoseSlots hop

theorem runHart_othersLoseSlots {s t : State} (h : runHart s = .next t) : OthersLoseSlots s t := by
  obtain ⟨u, hu, rfl⟩ := runHart_next h
  exact (execute_othersLoseSlots hu).trans_eq u.haltOnTrap_below u.haltOnTrap_above
    ⟨u.haltOnTrap_cfg, u.haltOnTrap_inputs, u.haltOnTrap_tick⟩

/-! ### The defect flag (R28) -/

/-- A hart that is defective stays so. -/
def Hart.DefectKept (h h' : Hart) : Prop := h.defect = true → h'.defect = true

theorem Hart.LosesSlot.defectKept {h h' : Hart} (hl : h.LosesSlot h') : h.DefectKept h' := by
  obtain ⟨hsame, -⟩ := hl
  rw [hsame]
  exact id

/-- Every hart that is defective stays so. -/
def State.DefectsKept (s t : State) : Prop := List.Forall₂ Hart.DefectKept s.harts t.harts

/-- Every hart keeps its defect flag where the hart in focus keeps its own and the others lose reservations at most. -/
theorem OthersLoseSlots.defectsKept {s t : State} (h : OthersLoseSlots s t) (hhart : s.hart.DefectKept t.hart) :
    s.DefectsKept t :=
  List.rel_append (h.below.imp fun _ _ => Hart.LosesSlot.defectKept)
    (.cons hhart (h.above.imp fun _ _ => Hart.LosesSlot.defectKept))

/-- A change of the hart in focus that keeps its defect flag. -/
theorem defectsKept_of_eq {s t : State} (hbelow : t.below = s.below) (habove : t.above = s.above)
    (hhart : t.hart.defect = s.hart.defect) (hsystem : SameSystem s t) : s.DefectsKept t :=
  (othersLoseSlots_of_eq hbelow habove hsystem).defectsKept fun hd => hhart ▸ hd

/-- A call runs on a hart that is not defective, so that only the other harts have a flag to keep (R104). -/
theorem OthersLoseSlots.defectsKept_of_sound {s t : State} (h : OthersLoseSlots s t) (hsound : s.hart.defect = false) :
    s.DefectsKept t :=
  h.defectsKept fun hd => absurd hd (by simp [hsound])

theorem defectsKept_runHart {s t : State} (h : runHart s = .next t) : s.DefectsKept t := by
  obtain ⟨u, hu, -⟩ := runHart_next h
  exact (runHart_othersLoseSlots h).defectsKept_of_sound (execute_next hu).1

theorem defectsKept_eventHart {s t : State} (h : eventHart s = .next t) : s.DefectsKept t := by
  obtain ⟨op, -, -, rfl⟩ | h := eventHart_next h
  · exact defectsKept_of_eq rfl rfl rfl ⟨rfl, rfl, rfl⟩
  · exact defectsKept_runHart h

theorem defectsKept_focusMove {k : Nat} {u t : State} {i : Option Input} (h : FocusMove k u i t) :
    u.DefectsKept t := by
  cases h with
  | run _ _ h => exact defectsKept_runHart h
  | event _ _ h => exact defectsKept_eventHart h
  | call _ h => exact (executeOp_othersLoseSlots h).defectsKept_of_sound (executeOp_next h).1
  | idle | contextSwitch | resume | csrUnit => exact defectsKept_of_eq rfl rfl rfl ⟨rfl, rfl, rfl⟩

theorem defectsKept_storeBytes (s : State) (addr : Word) (w : Width) (v : Word) :
    s.DefectsKept (storeBytes s addr w v) :=
  (othersLoseSlots_storeBytes s addr w v).defectsKept (Hart.losesSlot_dropOverlap _ _ _).defectKept

/-- No step but the reset input clears a defect flag; `begin` and the choice of the hart in focus move no hart. -/
theorem defectsKept_step {s t : State} (h : step s = .next t) (hreset : s.inputs.head? ≠ some .reset) :
    s.DefectsKept t := by
  obtain ⟨k, u, hu, hm⟩ | ⟨hr, -, -⟩ | ⟨addr, w, v, -, rfl | ⟨-, rfl⟩⟩ := step_next h
  · obtain ⟨hharts, -⟩ := State.focus_harts hu
    have hkept := defectsKept_focusMove hm
    rwa [State.DefectsKept, hharts] at hkept
  · exact absurd hr hreset
  · exact List.forall₂_same.mpr fun _ _ => id
  · exact defectsKept_storeBytes s.begin addr w v

/-- Lists related element by element are related at each index. -/
theorem exists_getElem?_of_forall₂ {α β : Type} {R : α → β → Prop} {l : List α} {l' : List β} (h : List.Forall₂ R l l')
    {k : Nat} {x : α} (hx : l[k]? = some x) : ∃ y, l'[k]? = some y ∧ R x y := by
  obtain ⟨hk, rfl⟩ := List.getElem?_eq_some_iff.mp hx
  have hk' : k < l'.length := h.length_eq ▸ hk
  exact ⟨l'[k], List.getElem?_eq_getElem hk', h.get hk hk'⟩

/-- Settles O59: hart k of the state before is defective, and hart k of the state after keeps that. -/
theorem defectIsSticky : Obligations.DefectIsSticky := by
  intro s t k h hstep hreset hk hd
  obtain ⟨h', hk', hkept⟩ := exists_getElem?_of_forall₂ (defectsKept_step hstep hreset) hk
  exact ⟨h', hk', hkept hd⟩

/-! ### The fetch (R25, R50) -/

/-- A fetch fails only by the checks of its read. -/
theorem accessCheck_of_loadInstruction_error {s : State} {f : MemFault} (h : loadInstruction s = .error f) :
    accessCheck s.cfg s.hart.pc .word [.fetch] = some f := by
  unfold loadInstruction at h
  split at h
  · next e => cases h; exact e
  · cases h

/-- Settles O60: pc is aligned, so that the fetch is either served or an access fault. -/
theorem fetchIsNeverMisaligned : Obligations.FetchIsNeverMisaligned := by
  intro s f hs h
  have hcheck := accessCheck_of_loadInstruction_error h
  have hpc : s.hart.pc.toNat % Width.word.bytes = 0 := hs.hart.pc
  cases ha : accessible s.cfg s.hart.pc .word .fetch with
  | true =>
    have hok : AccessOk s s.hart.pc .word [.fetch] := ⟨hpc, by simpa using ha⟩
    rw [(accessCheck_none_iff s _ _ _).mpr hok] at hcheck
    cases hcheck
  | false =>
    rw [accessCheck_fault s.cfg hpc (List.mem_singleton.mpr rfl) ha] at hcheck
    exact (Option.some.inj hcheck).symm

/-! ### The state after reset (R33, R341) -/

section
variable (cfg : Config) (units : Nat → CsrUnit) (pc0 : Word) (pcs : List Word)

/-- The harts after reset, in number order: hart k has the k-th RESET_PC and its own CSR unit. -/
theorem State.harts_resetOf :
    (State.resetOf cfg units pc0 pcs).harts = (pc0 :: pcs).mapIdx fun k pc => Hart.atReset pc (units k) := by
  rw [List.mapIdx_cons]
  rfl

theorem State.harts_resetOf_getElem? (k : Nat) :
    (State.resetOf cfg units pc0 pcs).harts[k]? = (pc0 :: pcs)[k]?.map fun pc => Hart.atReset pc (units k) := by
  rw [State.harts_resetOf, List.getElem?_mapIdx]

theorem Hart.inv_atReset {pc : Word} (h : pc.toNat % 4 = 0) (unit : CsrUnit) : (Hart.atReset pc unit).Inv cfg :=
  ⟨h, h, nofun, nofun⟩

theorem State.inv_resetOf (h : ∀ pc ∈ pc0 :: pcs, pc.toNat % 4 = 0) : (State.resetOf cfg units pc0 pcs).Inv where
  mem := ⟨.nil, nofun⟩
  harts x hx := by
    rw [State.harts_resetOf] at hx
    obtain ⟨k, hk, rfl⟩ := List.mem_mapIdx.mp hx
    exact Hart.inv_atReset _ (h _ (List.getElem_mem hk)) _
  inputs := nofun

end

/-- Settles O56: the harts after reset are read off by number. -/
theorem resetMeetsTheInvariant : Obligations.ResetMeetsTheInvariant := by
  refine ⟨fun cfg units pc0 pcs => ⟨?_, fun k h hk => ?_, fun hpc0 hpcs => ?_⟩, ?_⟩
  · rw [State.harts_resetOf, List.length_mapIdx, List.length_cons]
  · rw [State.harts_resetOf_getElem?] at hk
    obtain ⟨pc, hpc, rfl⟩ := Option.map_eq_some_iff.mp hk
    exact ⟨hpc, rfl, rfl, rfl, rfl, rfl⟩
  · exact State.inv_resetOf cfg units pc0 pcs (List.forall_mem_cons.mpr ⟨hpc0, hpcs⟩)
  · exact State.inv_resetOf _ _ _ _ (List.forall_mem_singleton.mpr rfl)

end Sys2Proof.Machine
end

section
/-! SUPPORT. Bytes as numbers, what the store path leaves, the faults of the memory primitives, what a handler that stores
or writes one register makes of a call, the fetch, and which action an input or an event is. Proofs about memory, stores,
fetches and events cite these lemmas. -/

namespace Sys2Proof.Machine

/-! ### Bytes as numbers (R48) -/

/-- A byte below the shifted rest of a word does not overlap it, so that joining the two adds them up. -/
theorem ofNat_byte_add (b : Byte) (x : Nat) :
    BitVec.ofNat 32 (b.toNat + 256 * x) = b.setWidth 32 ||| BitVec.ofNat 32 x <<< 8 := by
  have hlow : BitVec.ofNat 32 b.toNat = b.setWidth 32 := BitVec.ofNat_toNat _ _
  have hhigh : BitVec.ofNat 32 (256 * x) = BitVec.ofNat 32 x <<< 8 := by
    rw [BitVec.ofNat_mul, BitVec.mul_comm, BitVec.shiftLeft_eq_mul_twoPow]
    rfl
  have hdisjoint : b.setWidth 32 &&& BitVec.ofNat 32 x <<< 8 = 0#32 := by
    ext i hi
    by_cases h : i < 8
    · simp [h]
    · simp [BitVec.getLsbD_of_ge b i (by omega)]
  rw [BitVec.ofNat_add, hlow, hhigh, BitVec.add_eq_or_of_and_eq_zero _ _ hdisjoint]

/-- A read of n bytes is their little-endian value. -/
theorem readLE_eq_ofNat_bytesAt (s : State) (a n : Nat) :
    Memory.readLE s.mem a n = BitVec.ofNat 32 (bytesAt s a n) := by
  induction n generalizing a with
  | zero => rfl
  | succ n ih => rw [Memory.readLE, bytesAt, ih, ofNat_byte_add]

/-! ### The store path (R44, R45) -/

section
variable (s : State) (addr : Word) (w : Width) (v : Word)

theorem memKeptOutside_storeBytes : MemKeptOutside s (storeBytes s addr w v) addr.toNat w.bytes :=
  fun _ ha => Memory.read_writeLE_outside _ _ _ _ ha

theorem read_storeBytes_inside {k : Nat} (hk : k < w.bytes) :
    Memory.read (storeBytes s addr w v).mem (addr.toNat + k) = v.extractLsb' (8 * k) 8 := by
  rw [storeBytes_mem, Memory.read_writeLE_inside _ _ _ _ hk, BitVec.setWidth_ushiftRight_eq_extractLsb]

theorem forall₂_seesStore_storeBytes :
    List.Forall₂ (Hart.SeesStore addr.toNat w.bytes) s.harts (storeBytes s addr w v).harts := by
  rw [storeBytes_harts]
  exact forall₂_seesStore _ _ _

end

/-! ### The faults of the memory primitives (R47) -/

section
variable {s : State} {addr : Word} {e : MemFault}

theorem memRead_error {w : Width} (h : accessCheck s.cfg addr w [.read] = some e) : memRead s addr w = .error e := by
  rw [memRead, h]

theorem memWrite_error {w : Width} (v : Word) (h : accessCheck s.cfg addr w [.write] = some e) :
    memWrite s addr w v = .error e := by
  rw [memWrite, h]

theorem memAmo_error (f : Word → Word → Word) (x : Word) (h : accessCheck s.cfg addr .word [.read, .write] = some e) :
    memAmo s addr f x = .error e := by
  rw [memAmo, h]

end

/-! ### What the engine makes of a handler (R104, R105) -/

/-- The engine around a handler that writes one register: the register, pc and the Outcome change. -/
theorem writesRegister_of_cont_setReg {i : Instr} {s : State} {cap : Capability} {handler : State → Result} {rd : Reg}
    {v : Word} (hexec : exec i s = runOp cap s handler) (hready : s.Ready cap)
    (hcont : handler s = .cont (s.setReg rd v)) : WritesRegister i s rd v := by
  refine ⟨retire s (.cont (s.setReg rd v)), ?_, s.reg_setReg_same rd v, ⟨rfl, rfl⟩, ?_⟩
  · rw [hexec, runOp_ready handler hready, hcont]
  · exact {
      regs := (regsKept_refl s _).setReg v
      mem := fun _ => rfl
      csrs := rfl
      resv := rfl
      control := ⟨rfl, rfl, rfl, rfl⟩
      below := rfl
      above := rfl
      system := ⟨rfl, rfl, rfl⟩ }

/-- SB, SH and SW on an aligned accessible address store and go on (R180). -/
theorem runOp_store {s : State} {w : Width} {rs1 : Reg} {imm : Word} (rs2 : Reg) (hready : s.Ready .base)
    (hok : AccessOk s (s.reg rs1 + imm) w [.write]) :
    runOp .base s (store w rs1 rs2 imm) =
      .next (retire s (.cont (storeBytes s (s.reg rs1 + imm) w (s.reg rs2)))) := by
  rw [runOp_ready _ hready, store, effAddr, memWrite_ok _ hok]

/-- An SC.W without the reservation it needs fails, whatever memory would allow (R242, R244, R248). -/
theorem writesRegister_scW_of_not_reserved {s : State} {rd rs1 rs2 : Reg} {aq rl : Bool} (hready : s.Ready .a)
    (haligned : (s.reg rs1).toNat % 4 = 0) (hresv : s.hart.resv ≠ some ⟨s.reg rs1, 4⟩) :
    WritesRegister (.scW rd rs1 rs2 aq rl) s rd 1 := by
  refine writesRegister_of_cont_setReg rfl hready (handler := storeConditional rd rs1 rs2) ?_
  have hkeeps : ¬ Config.scFailClearsReservation = true := nofun
  dsimp only [storeConditional]
  rw [if_neg (not_not.mpr haligned), if_neg hresv, if_neg hkeeps]

/-! ### The fetch (R50, R103) -/

theorem loadInstruction_ok {s : State} (h : AccessOk s s.hart.pc .word [.fetch]) :
    loadInstruction s = .ok (decodeOperation s.cfg (Memory.readLE s.mem s.hart.pc.toNat 4)) := by
  rw [loadInstruction, (accessCheck_none_iff s _ _ _).mpr h]

theorem loadInstruction_error {s : State} {f : MemFault}
    (h : accessCheck s.cfg s.hart.pc .word [.fetch] = some f) : loadInstruction s = .error f := by
  rw [loadInstruction, h]

/-- An `execute` whose fetch is done runs the remembered Operation and forgets it (R55). -/
theorem execute_of_fetched {s : State} {op : Operation} (hd : s.hart.defect = false)
    (hf : s.hart.fetched = some op) : execute s = executeOp op (s.setFetched none) := by
  rw [execute, if_neg (by simp [hd]), hf]

/-- An `execute` whose fetch fails traps with the fault (R103, R302). -/
theorem execute_of_fetch_error {s : State} {f : MemFault} (hd : s.hart.defect = false) (hf : s.hart.fetched = none)
    (hl : loadInstruction s = .error f) : execute s = .next (s.takeTrap (fetchCause f.kind) f.addr) := by
  rw [execute, if_neg (by simp [hd]), hf]
  dsimp only
  rw [hl]

/-! ### Which action a step is (R55) -/

/-- A step with an input queued does what the input says. -/
theorem step_of_head? {s : State} {i : Input} (h : s.inputs.head? = some i) : step s = applyInput i s.begin := by
  obtain ⟨is, hi⟩ := List.head?_eq_some_iff.mp h
  rw [step, systemStep, hi]

theorem onHart_of_focus {k : Nat} {s u : State} (h : s.focus k = some u)
    (act : State → Host.Outcome State Fault Refusal) : onHart k s act = act u := by
  rw [onHart, h]

/-- A queued event of a hart that can move happens with that hart in focus. -/
theorem step_event {s u : State} {k : Nat} (hfocus : s.begin.focus k = some u)
    (hinput : s.inputs.head? = some (.event k)) (hmove : u.hart.canMove = true) : step s = eventHart u := by
  rw [step_of_head? hinput, applyInput, onHart_of_focus hfocus, if_pos hmove]

/-- The fetch event only remembers the decoded Operation. -/
theorem eventHart_of_loaded {s : State} {op : Operation} (hf : s.hart.fetched = none)
    (hl : loadInstruction s = .ok op) : eventHart s = .next (s.setFetched (some op)) := by
  rw [eventHart, hf]
  dsimp only
  rw [hl]

/-- The event after the fetch ends the call. -/
theorem eventHart_of_fetched {s : State} {op : Operation} (hf : s.hart.fetched = some op) :
    eventHart s = runHart s := by
  rw [eventHart, hf]

theorem Hart.defect_of_canMove {h : Hart} (hmove : h.canMove = true) : h.defect = false := by
  rw [Hart.canMove, Bool.and_eq_true, Bool.not_eq_true'] at hmove
  exact hmove.1

end Sys2Proof.Machine
end

section
/-! CERTIFICATE. Memory: the contract of its primitives (R43, R44, R46, R47), the store path and what it breaks (R45, R60,
R248), who changes a byte, and the fetch (R50, R55, R58). -/

namespace Sys2Proof.Machine

/-! ### The primitives and the store path -/

/-- Settles O19: the checks decide between the access and its fault, and each primitive follows them. -/
theorem memoryPrimitivesFollowTheirContract : Obligations.MemoryPrimitivesFollowTheirContract := by
  intro s addr w v f
  refine ⟨fun hok => ?_, fun hok => ?_, fun hok => ?_, fun hmis => ?_, fun hmis => ?_, fun ha hr => ?_, fun ha hw => ?_,
    fun ha hrw => ?_⟩
  · rw [memRead_ok hok, readLE_eq_ofNat_bytesAt]
  · exact ⟨_, memWrite_ok v hok, memKeptOutside_storeBytes s addr w v, fun _ => read_storeBytes_inside s addr w v,
      forall₂_seesStore_storeBytes s addr w v, rfl, rfl, rfl⟩
  · have hwrite : AccessOk s addr .word [.write] := ⟨hok.aligned, fun k hk => hok.served k (.tail _ hk)⟩
    rw [← readLE_eq_ofNat_bytesAt]
    exact ⟨_, memAmo_ok f v hok, memWrite_ok _ hwrite⟩
  · exact ⟨memRead_error (accessCheck_misaligned _ _ hmis), memWrite_error v (accessCheck_misaligned _ _ hmis)⟩
  · exact memAmo_error f v (accessCheck_misaligned (w := .word) _ _ hmis)
  · exact memRead_error (accessCheck_fault _ ha (by simp) hr)
  · exact memWrite_error v (accessCheck_fault _ ha (by simp) hw)
  · obtain hr | hw := hrw
    · exact memAmo_error f v (accessCheck_fault (w := .word) _ ha (by simp) hr)
    · exact memAmo_error f v (accessCheck_fault (w := .word) _ ha (by simp) hw)

/-- Settles O55: the input is `memWrite` on the state the step starts from, which has the same memory and harts. -/
theorem agentStoresUseTheStorePath : Obligations.AgentStoresUseTheStorePath := by
  intro s addr w v hinput
  rw [step_of_head? hinput, applyInput]
  obtain ⟨f, hcheck, e⟩ | ⟨hok, e⟩ := memWrite_cases s.begin addr w v <;> rw [e]
  · refine ⟨fun hok => ?_, fun _ => rfl⟩
    have hnone := (accessCheck_none_iff s addr w _).mpr hok
    exact absurd (hcheck.symm.trans hnone) (Option.some_ne_none f)
  · exact ⟨fun _ => ⟨_, rfl, memKeptOutside_storeBytes s.begin addr w v,
      fun _ => read_storeBytes_inside s.begin addr w v, forall₂_seesStore_storeBytes s.begin addr w v⟩,
      fun hnot => absurd ⟨hok.aligned, hok.served⟩ hnot⟩

/-! ### Stores break reservations (R45, R248) -/

/-- The pc policy leaves every hart's slot as the handler answered it. -/
theorem map_resv_harts_retire_cont (s u : State) :
    (retire s (.cont u)).harts.map Hart.resv = u.harts.map Hart.resv := by
  simp [retire, State.harts]

/-- After a store, the hart in focus at number k has the slot the store left of hart k's. -/
theorem resv_of_focus_after_store {s u : State} {addr : Word} {w : Width} {v : Word} {k : Nat} {h : Hart}
    (hk : s.harts[k]? = some h) (hu : (retire s (.cont (storeBytes s addr w v))).focus k = some u) :
    u.hart.resv = (h.dropOverlap addr.toNat w.bytes).resv := by
  obtain ⟨-, -, -, -, -, huk, -⟩ := State.focus_harts hu
  have hslots := congrArg (·[k]?) (map_resv_harts_retire_cont s (storeBytes s addr w v))
  simpa [huk, hk] using hslots

/-- A plain store empties the slot it meets, and an SC.W with an empty slot fails. -/
theorem breaksReservation_of_store {i : Instr} {s : State} {w : Width} {rs1 rs2 : Reg} {imm : Word}
    (hexec : exec i s = runOp .base s (store w rs1 rs2 imm)) (hready : s.Ready .base) :
    BreaksReservation i s (s.reg rs1 + imm) w := by
  intro t u k h r rd rs1' rs2' aq rl hok hk hr hmeets hnext hu hready' haligned
  obtain rfl := Host.Outcome.next.inj ((hexec.trans (runOp_store rs2 hready hok)).symm.trans hnext)
  obtain ⟨hcleared, -, -⟩ := slotAfterStore_dropOverlap (s.reg rs1 + imm).toNat w.bytes h
  have hempty : u.hart.resv = none := (resv_of_focus_after_store hk hu).trans (hcleared r hr hmeets)
  exact ⟨hempty, writesRegister_scW_of_not_reserved hready' haligned (by simp [hempty])⟩

/-- Settles O33, by the common store rule at each width. -/
theorem storesBreakReservations : Obligations.StoresBreakReservations := fun _ _ _ _ hready =>
  ⟨breaksReservation_of_store rfl hready, breaksReservation_of_store rfl hready, breaksReservation_of_store rfl hready⟩

/-! ### Who changes a byte (R43, R44, R46) -/

/-- The state a handler answers with has the memory of `s`. -/
def Result.KeepsMem (s : State) : Result → Prop
  | .cont u | .jump _ u => u.mem = s.mem
  | .trap .. => True

/-- The pc policy writes no memory. -/
theorem Result.KeepsMem.mem_retire {s : State} {r : Result} (h : r.KeepsMem s) : (retire s r).mem = s.mem := by
  cases r with
  | cont | jump => exact h
  | trap => rfl

section
variable (s : State)

theorem keepsMem_jumpAndLink (rd : Reg) (t : Word) : (jumpAndLink rd t s).KeepsMem s := by
  unfold jumpAndLink
  split
  · trivial
  · rfl

theorem keepsMem_branch (cond : Word → Word → Bool) (rs1 rs2 : Reg) (imm : Word) :
    (branch cond rs1 rs2 imm s).KeepsMem s := by
  unfold branch
  split
  · dsimp only
    split
    · trivial
    · rfl
  · rfl

theorem keepsMem_load (w : Width) (ext : Word → Word) (rd rs1 : Reg) (imm : Word) :
    (load w ext rd rs1 imm s).KeepsMem s := by
  unfold load
  split
  · trivial
  · rfl

theorem keepsMem_loadReserved (rd rs1 : Reg) : (loadReserved rd rs1 s).KeepsMem s := by
  unfold loadReserved
  dsimp only
  split
  · trivial
  · rfl

theorem keepsMem_csrAccess (doRead doWrite : Bool) (new : Word → Word → Word) (src : Word) (rd : Reg)
    (csr : CsrAddr) (raw : Word) : (csrAccess doRead doWrite new src rd csr raw s).KeepsMem s := by
  unfold csrAccess
  split
  · trivial
  · split
    · split
      · trivial
      · show (State.setReg _ _ _).mem = s.mem
        split <;> simp
    · show State.mem _ = s.mem
      split <;> simp

/-- Outside the stores, SC.W and the AMOs, `exec` is the engine around a handler that writes no memory. -/
theorem exec_eq_runOp_keepsMem {i : Instr} (h : storesMemory i = false) :
    ∃ handler, exec i s = runOp i.capability s handler ∧ (handler s).KeepsMem s := by
  cases i with
  | sb | sh | sw | scW
  | amoswapW | amoaddW | amoxorW | amoandW | amoorW | amominW | amomaxW | amominuW | amomaxuW => cases h
  | fence | fenceI => exact ⟨_, rfl, rfl⟩
  | ecall => exact ⟨fun _ => .trap .environmentCall 0, rfl, trivial⟩
  | ebreak => exact ⟨fun s => .trap .breakpoint s.hart.pc, rfl, trivial⟩
  | lui rd imm => exact ⟨fun s => .cont (s.setReg rd imm), rfl, rfl⟩
  | auipc rd imm => exact ⟨fun s => .cont (s.setReg rd (s.hart.pc + imm)), rfl, rfl⟩
  | addi | slti | sltiu | xori | ori | andi | slli | srli | srai
  | add | sub | sll | slt | sltu | xor | srl | sra | or | and
  | mul | mulh | mulhsu | mulhu | div | divu | rem | remu => exact ⟨_, rfl, rfl⟩
  | jal | jalr => exact ⟨_, rfl, keepsMem_jumpAndLink s _ _⟩
  | beq | bne | blt | bge | bltu | bgeu => exact ⟨_, rfl, keepsMem_branch s _ _ _ _⟩
  | lb | lh | lw | lbu | lhu => exact ⟨_, rfl, keepsMem_load s _ _ _ _ _⟩
  | lrW => exact ⟨_, rfl, keepsMem_loadReserved s _ _⟩
  | csrrw | csrrs | csrrc | csrrwi | csrrsi | csrrci => exact ⟨_, rfl, keepsMem_csrAccess s _ _ _ _ _ _ _⟩

end

/-- Settles O41: memory is kept by the handler and by the engine around it. -/
theorem onlyStoresWriteMemory : Obligations.OnlyStoresWriteMemory := by
  intro i s t h hi
  obtain ⟨handler, e, hkeeps⟩ := exec_eq_runOp_keepsMem s hi
  obtain ⟨-, ⟨-, rfl⟩ | ⟨-, rfl⟩⟩ := runOp_next (e ▸ h)
  · exact fun _ => rfl
  · exact fun a => congrArg (Memory.read · a) hkeeps.mem_retire

/-! ### The fetch (R50, R55, R58) -/

/-- Settles O46: the check of the fetch names the fault, misaligned first. -/
theorem fetchFaultsTrap : Obligations.FetchFaultsTrap := by
  intro s hd hf
  refine ⟨fun hmis => ?_, fun ha hacc => ?_⟩
  · have hl := loadInstruction_error (accessCheck_misaligned s.cfg (w := .word) [.fetch] hmis)
    exact ⟨_, execute_of_fetch_error hd hf hl, traps_takeTrap _ _ _⟩
  · have hl := loadInstruction_error (accessCheck_fault s.cfg (w := .word) ha (List.mem_singleton.mpr rfl) hacc)
    exact ⟨_, execute_of_fetch_error hd hf hl, traps_takeTrap _ _ _⟩

/-- Settles O50: the fetch reads the shared memory, where the stored word reads back. -/
theorem storesAreSeenByLaterFetches : Obligations.StoresAreSeenByLaterFetches := by
  intro s t u k rs1 rs2 imm hready hok hnext hu hpc hacc
  have hstore : exec (.sw rs1 rs2 imm) s = _ := runOp_store rs2 hready hok
  obtain rfl := Host.Outcome.next.inj (hstore.symm.trans hnext)
  obtain ⟨-, -, hmem, -⟩ := State.focus_harts hu
  have hstored : u.mem = Memory.writeLE s.mem (s.reg rs1 + imm).toNat 4 (s.reg rs2) := hmem
  have hfetch : AccessOk u u.hart.pc .word [.fetch] := ⟨hpc ▸ hok.aligned, by simpa using hacc⟩
  rw [loadInstruction_ok hfetch, hstored, hpc, Memory.readLE_writeLE_word]

/-- Settles O49: an event either remembers what it fetched or runs what was remembered. -/
theorem executeIsTwoEvents : Obligations.ExecuteIsTwoEvents := by
  intro s u k hfocus hinput hmove
  rw [step_event hfocus hinput hmove]
  refine ⟨fun hf _ hl => eventHart_of_loaded hf hl, fun op hf => ?_⟩
  rw [eventHart_of_fetched hf, runHart, execute_of_fetched (Hart.defect_of_canMove hmove) hf]

end Sys2Proof.Machine
end

section
/-! SUPPORT. The decoder as a relation: the encoder puts the fields of a word together to the word again, the immediates the
decoder assembles have the shapes of R77, and a word decodes to an instruction exactly when it is one of the instruction's
words (30_encoding.md rules R80 to R90). -/

namespace Sys2Proof

/-! ### The slices of an assembled immediate (R81) -/

theorem setWidth_signExtend {n m : Nat} (v : BitVec n) (h : n ≤ m) : (v.signExtend m).setWidth n = v := by
  ext i hi
  rw [BitVec.getElem_setWidth, BitVec.getLsbD_signExtend]
  simp [hi, show i < m by omega]

theorem extractLsb'_signExtend {n m lo len : Nat} (v : BitVec n) (h : lo + len ≤ n) (hm : n ≤ m) :
    (v.signExtend m).extractLsb' lo len = v.extractLsb' lo len := by
  ext i hi
  rw [BitVec.getElem_extractLsb', BitVec.getElem_extractLsb', BitVec.getLsbD_signExtend]
  simp [show lo + i < n by omega, show lo + i < m by omega]

section
variable (w : Word)

theorem immIOf_slice : (immIOf w).extractLsb' 0 12 = w.extractLsb' 20 12 := by
  rw [immIOf, extractLsb'_signExtend _ (by decide) (by decide), BitVec.extractLsb'_eq_self]

theorem shamtOf_slice : (shamtOf w).extractLsb' 0 5 = rs2Of w := by
  rw [extract_low, shamtOf, rs2Of, BitVec.setWidth_setWidth_of_le _ (by decide), BitVec.setWidth_eq]

theorem immUOf_slice : (immUOf w).extractLsb' 12 20 = w.extractLsb' 12 20 := by
  unfold immUOf place
  ext i hi
  interval_cases i <;> simp

theorem immSOf_slices :
    (immSOf w).extractLsb' 5 7 = w.extractLsb' 25 7 ∧ (immSOf w).extractLsb' 0 5 = w.extractLsb' 7 5 := by
  simp only [immSOf, extractLsb'_signExtend, Nat.reduceLeDiff, Nat.reduceAdd, place]
  constructor <;> (ext i hi; interval_cases i <;> simp)

theorem immBOf_slices :
    (immBOf w).extractLsb' 12 1 = w.extractLsb' 31 1 ∧ (immBOf w).extractLsb' 5 6 = w.extractLsb' 25 6 ∧
    (immBOf w).extractLsb' 1 4 = w.extractLsb' 8 4 ∧ (immBOf w).extractLsb' 11 1 = w.extractLsb' 7 1 := by
  simp only [immBOf, extractLsb'_signExtend, Nat.reduceLeDiff, Nat.reduceAdd, place]
  refine ⟨?_, ?_, ?_, ?_⟩ <;> (ext i hi; interval_cases i <;> simp)

theorem immJOf_slices :
    (immJOf w).extractLsb' 20 1 = w.extractLsb' 31 1 ∧ (immJOf w).extractLsb' 1 10 = w.extractLsb' 21 10 ∧
    (immJOf w).extractLsb' 11 1 = w.extractLsb' 20 1 ∧ (immJOf w).extractLsb' 12 8 = w.extractLsb' 12 8 := by
  simp only [immJOf, extractLsb'_signExtend, Nat.reduceLeDiff, Nat.reduceAdd, place]
  refine ⟨?_, ?_, ?_, ?_⟩ <;> (ext i hi; interval_cases i <;> simp)

theorem ofBool_getLsbD (k : Nat) : BitVec.ofBool (w.getLsbD k) = w.extractLsb' k 1 := by
  ext i hi
  obtain rfl : i = 0 := by omega
  simp

end

/-! ### A word is its fields put side by side (R80) -/

/-- A field put back where it was read from holds the word's bits at its positions, and zeros elsewhere. -/
theorem getElem_place_extractLsb' (w : Word) (lo n : Nat) {i : Nat} (hi : i < 32) :
    (place (w.extractLsb' lo n) lo)[i] = (decide (lo ≤ i ∧ i < lo + n) && w[i]) := by
  by_cases hl : lo ≤ i
  · by_cases hn : i < lo + n
    · simp [place, hl, hn, show i - lo < n by omega, BitVec.getLsbD_eq_getElem hi, show ¬ i < lo by omega]
    · simp [place, hl, hn, show ¬ i - lo < n by omega]
  · simp [place, show i < lo by omega]

/-- Two neighbouring fields put back side by side are one field. -/
theorem place_or_place (w : Word) {top lo n m : Nat} (h : top = lo + n) :
    place (w.extractLsb' top m) top ||| place (w.extractLsb' lo n) lo = place (w.extractLsb' lo (n + m)) lo := by
  subst h
  ext i hi
  simp only [BitVec.getElem_or, getElem_place_extractLsb']
  rw [← Bool.and_or_distrib_right, ← Bool.decide_or]
  congr 2
  rw [eq_iff_iff]
  omega

/-- The field of all bits is the word. -/
theorem place_all (w : Word) {n : Nat} (h : 32 ≤ n) : place (w.extractLsb' 0 n) 0 = w := by
  ext i hi
  simp [getElem_place_extractLsb', show i < n by omega]

section
variable {w : Word} {f7 : BitVec 7} {f5 : BitVec 5} {f3 : BitVec 3} {op : BitVec 7}

theorem encR_fields (h7 : funct7Of w = f7) (h3 : funct3Of w = f3) (ho : opcodeOf w = op) :
    encR f7 (rs2Of w) (rs1Of w) f3 (rdOf w) op = w := by
  subst h7 h3 ho
  rw [encR, funct7Of, rs2Of, rs1Of, funct3Of, rdOf, opcodeOf]
  simp only [place_or_place, place_all, Nat.reduceAdd, Nat.reduceLeDiff]

theorem encShamt_fields (h7 : funct7Of w = f7) (h3 : funct3Of w = f3) (ho : opcodeOf w = op) :
    encShamt f7 (shamtOf w) (rs1Of w) f3 (rdOf w) op = w := by
  rw [encShamt, shamtOf_slice, encR_fields h7 h3 ho]

theorem encI_fields (h3 : funct3Of w = f3) (ho : opcodeOf w = op) :
    encI (immIOf w) (rs1Of w) f3 (rdOf w) op = w := by
  subst h3 ho
  rw [encI, immIOf_slice, rs1Of, funct3Of, rdOf, opcodeOf]
  simp only [place_or_place, place_all, Nat.reduceAdd, Nat.reduceLeDiff]

theorem encS_fields (h3 : funct3Of w = f3) (ho : opcodeOf w = op) :
    encS (immSOf w) (rs2Of w) (rs1Of w) f3 op = w := by
  subst h3 ho
  obtain ⟨h5, h0⟩ := immSOf_slices w
  rw [encS, h5, h0, rs2Of, rs1Of, funct3Of, opcodeOf]
  simp only [place_or_place, place_all, Nat.reduceAdd, Nat.reduceLeDiff]

theorem encB_fields (h3 : funct3Of w = f3) (ho : opcodeOf w = op) :
    encB (immBOf w) (rs2Of w) (rs1Of w) f3 op = w := by
  subst h3 ho
  obtain ⟨h12, h5, h1, h11⟩ := immBOf_slices w
  rw [encB, h12, h5, h1, h11, rs2Of, rs1Of, funct3Of, opcodeOf]
  simp only [place_or_place, place_all, Nat.reduceAdd, Nat.reduceLeDiff]

theorem encU_fields (ho : opcodeOf w = op) : encU (immUOf w) (rdOf w) op = w := by
  subst ho
  rw [encU, immUOf_slice, rdOf, opcodeOf]
  simp only [place_or_place, place_all, Nat.reduceAdd, Nat.reduceLeDiff]

theorem encJ_fields (ho : opcodeOf w = op) : encJ (immJOf w) (rdOf w) op = w := by
  subst ho
  obtain ⟨h20, h1, h11, h12⟩ := immJOf_slices w
  rw [encJ, h20, h1, h11, h12, rdOf, opcodeOf]
  simp only [place_or_place, place_all, Nat.reduceAdd, Nat.reduceLeDiff]

theorem encAmo_fields (h5 : funct5Of w = f5) (h3 : funct3Of w = 0b010#3) (ho : opcodeOf w = 0x2F#7) :
    encAmo f5 (aqOf w) (rlOf w) (rs2Of w) (rs1Of w) (rdOf w) = w := by
  subst h5
  rw [encAmo, ← h3, ← ho, funct5Of, aqOf, rlOf, ofBool_getLsbD, ofBool_getLsbD, rs2Of, rs1Of, funct3Of, rdOf, opcodeOf]
  simp only [place_or_place, place_all, Nat.reduceAdd, Nat.reduceLeDiff]

theorem encCsr_fields (h3 : funct3Of w = f3) (ho : opcodeOf w = 0x73#7) :
    encCsr (csrOf w) (rs1Of w) f3 (rdOf w) = w := by
  subst h3
  rw [encCsr, ← ho, csrOf, rs1Of, funct3Of, rdOf, opcodeOf]
  simp only [place_or_place, place_all, Nat.reduceAdd, Nat.reduceLeDiff]

end

/-! ### The shapes of the immediates (R77) -/

section
variable (w : Word)

theorem immUpper_immUOf : immUpper (immUOf w) = true := by
  simp only [immUpper, immUOf, place, beq_iff_eq]
  ext i hi
  simp

theorem immSigned12_immIOf : immSigned12 (immIOf w) = true := by
  simp [immSigned12, immIOf, setWidth_signExtend]

theorem immSigned12_immSOf : immSigned12 (immSOf w) = true := by
  simp [immSigned12, immSOf, setWidth_signExtend]

theorem immBranch_immBOf : immBranch (immBOf w) = true := by
  simp [immBranch, immBOf, setWidth_signExtend, BitVec.getElem_signExtend, place]

theorem immJump_immJOf : immJump (immJOf w) = true := by
  simp [immJump, immJOf, setWidth_signExtend, BitVec.getElem_signExtend, place]

theorem immShamt_shamtOf : immShamt (shamtOf w) = true := by
  simp [immShamt, shamtOf]

theorem immUimm_uimmOf : immUimm (rs1Of w) (uimmOf w) = true := by
  simp [immUimm, uimmOf, rs1Of]

end

/-! ### The decoder goes by the opcode (R82) -/

section
variable {w : Word}

theorem decodeFull_lui (h : opcodeOf w = 0x37#7) : decodeFull w = .ok (.lui (rdOf w) (immUOf w)) := by
  simp [decodeFull, low_two_of_opcode h, h]

theorem decodeFull_auipc (h : opcodeOf w = 0x17#7) : decodeFull w = .ok (.auipc (rdOf w) (immUOf w)) := by
  simp [decodeFull, low_two_of_opcode h, h]

theorem decodeFull_jal (h : opcodeOf w = 0x6F#7) : decodeFull w = .ok (.jal (rdOf w) (immJOf w)) := by
  simp [decodeFull, low_two_of_opcode h, h]

theorem decodeFull_jalr (h : opcodeOf w = 0x67#7) (h3 : funct3Of w = 0b000#3) :
    decodeFull w = .ok (.jalr (rdOf w) (rs1Of w) (immIOf w)) := by
  simp [decodeFull, low_two_of_opcode h, h, h3]

theorem decodeFull_branch (h : opcodeOf w = 0x63#7) : decodeFull w = decodeBranch w := by
  simp [decodeFull, low_two_of_opcode h, h]

theorem decodeFull_load (h : opcodeOf w = 0x03#7) : decodeFull w = decodeLoad w := by
  simp [decodeFull, low_two_of_opcode h, h]

theorem decodeFull_store (h : opcodeOf w = 0x23#7) : decodeFull w = decodeStore w := by
  simp [decodeFull, low_two_of_opcode h, h]

theorem decodeFull_opImm (h : opcodeOf w = 0x13#7) : decodeFull w = decodeOpImm w := by
  simp [decodeFull, low_two_of_opcode h, h]

theorem decodeFull_op (h : opcodeOf w = 0x33#7) : decodeFull w = decodeOp w := by
  simp [decodeFull, low_two_of_opcode h, h]

theorem decodeFull_miscMem (h : opcodeOf w = 0x0F#7) : decodeFull w = decodeMiscMem w := by
  simp [decodeFull, low_two_of_opcode h, h]

theorem decodeFull_system (h : opcodeOf w = 0x73#7) : decodeFull w = decodeSystem w := by
  simp [decodeFull, low_two_of_opcode h, h]

theorem decodeFull_amo (h : opcodeOf w = 0x2F#7) : decodeFull w = decodeAmo w := by
  simp [decodeFull, low_two_of_opcode h, h]

end

/-! ### What the decoder answers (R80 to R90) -/

/-- The bits of a word that make it this instruction's: all of them, but for FENCE and FENCE.I, which ignore every bit outside
opcode and funct3 (R87). -/
def Instr.readBits : Instr → Word
  | .fence | .fenceI => 0x0000707F#32
  | _ => 0xFFFFFFFF#32

/-- `w` is a word of the instruction `i`: the instruction is well formed and carries its own word, and `w` is that word up to
the bits the instruction ignores. -/
structure IsWordOf (w : Word) (i : Instr) : Prop where
  wellFormed : i.wellFormed = true
  rawMatches : i.rawMatches = true
  bits : w &&& i.readBits = encode i

/-- Whatever instruction a decoder's answer on a word holds, the word is one of the instruction's. -/
def AnswersOwner (w : Word) (r : Except Reject Instr) : Prop := ∀ i, r = .ok i → IsWordOf w i

section
variable {w : Word}

theorem answersOwner_error (w : Word) (r : Reject) : AnswersOwner w (.error r) := nofun

theorem answersOwner_ok {i : Instr} (hwf : i.wellFormed = true) (hraw : i.rawMatches = true)
    (hbits : w &&& i.readBits = encode i) : AnswersOwner w (.ok i) := by
  rintro j ⟨⟩
  exact ⟨hwf, hraw, hbits⟩

/-- The answer of an instruction that ignores no bit, from its encoding. -/
theorem answersOwner_of_encode {i : Instr} (hwf : i.wellFormed = true) (hraw : i.rawMatches = true)
    (hall : i.readBits = 0xFFFFFFFF#32) (he : encode i = w) : AnswersOwner w (.ok i) :=
  answersOwner_ok hwf hraw (by rw [hall, he]; exact BitVec.and_allOnes)

/-- The answer of a CSR instruction, whose raw field is the word. -/
theorem answersOwner_of_encode_raw {i : Instr} (hwf : i.wellFormed = true) (hraw : i.rawMatches = (w == encode i))
    (hall : i.readBits = 0xFFFFFFFF#32) (he : encode i = w) : AnswersOwner w (.ok i) :=
  answersOwner_of_encode hwf (hraw.trans (beq_iff_eq.mpr he.symm)) hall he

theorem answersOwner_ite {c : Prop} [Decidable c] {x y : Except Reject Instr} (hx : c → AnswersOwner w x)
    (hy : ¬ c → AnswersOwner w y) : AnswersOwner w (if c then x else y) := by
  by_cases h : c
  · rw [if_pos h]; exact hx h
  · rw [if_neg h]; exact hy h

theorem answersOwner_decodeBranch (ho : opcodeOf w = 0x63#7) : AnswersOwner w (decodeBranch w) := by
  unfold decodeBranch
  iterate 6
    refine answersOwner_ite
      (fun h3 => answersOwner_of_encode (immBranch_immBOf w) rfl rfl (encB_fields h3 ho)) fun _ => ?_
  exact answersOwner_error _ _

theorem answersOwner_decodeLoad (ho : opcodeOf w = 0x03#7) : AnswersOwner w (decodeLoad w) := by
  unfold decodeLoad
  iterate 5
    refine answersOwner_ite
      (fun h3 => answersOwner_of_encode (immSigned12_immIOf w) rfl rfl (encI_fields h3 ho)) fun _ => ?_
  exact answersOwner_error _ _

theorem answersOwner_decodeStore (ho : opcodeOf w = 0x23#7) : AnswersOwner w (decodeStore w) := by
  unfold decodeStore
  iterate 3
    refine answersOwner_ite
      (fun h3 => answersOwner_of_encode (immSigned12_immSOf w) rfl rfl (encS_fields h3 ho)) fun _ => ?_
  exact answersOwner_error _ _

theorem answersOwner_decodeOpImm (ho : opcodeOf w = 0x13#7) : AnswersOwner w (decodeOpImm w) := by
  have shift {f7 : BitVec 7} {f3 : BitVec 3} (h3 : funct3Of w = f3) (h7 : funct7Of w = f7) :=
    encShamt_fields h7 h3 ho
  unfold decodeOpImm
  iterate 6
    refine answersOwner_ite
      (fun h3 => answersOwner_of_encode (immSigned12_immIOf w) rfl rfl (encI_fields h3 ho)) fun _ => ?_
  refine answersOwner_ite (fun h3 => ?_) fun _ => ?_
  · exact answersOwner_ite (fun h7 => answersOwner_of_encode (immShamt_shamtOf w) rfl rfl (shift h3 h7))
      fun _ => answersOwner_error _ _
  · have h3 : funct3Of w = 0b101#3 := by bv_omega
    iterate 2
      refine answersOwner_ite
        (fun h7 => answersOwner_of_encode (immShamt_shamtOf w) rfl rfl (shift h3 h7)) fun _ => ?_
    exact answersOwner_error _ _

theorem answersOwner_decodeOp (ho : opcodeOf w = 0x33#7) : AnswersOwner w (decodeOp w) := by
  unfold decodeOp
  refine answersOwner_ite (fun h7 => ?_) fun _ =>
    answersOwner_ite (fun h7 => ?_) fun _ => answersOwner_ite (fun h7 => ?_) fun _ => answersOwner_error _ _
  · iterate 7
      refine answersOwner_ite
        (fun h3 => answersOwner_of_encode rfl rfl rfl (encR_fields h7 h3 ho)) fun _ => ?_
    exact answersOwner_of_encode rfl rfl rfl (encR_fields h7 (by bv_omega) ho)
  · iterate 2
      refine answersOwner_ite
        (fun h3 => answersOwner_of_encode rfl rfl rfl (encR_fields h7 h3 ho)) fun _ => ?_
    exact answersOwner_error _ _
  · iterate 7
      refine answersOwner_ite
        (fun h3 => answersOwner_of_encode rfl rfl rfl (encR_fields h7 h3 ho)) fun _ => ?_
    exact answersOwner_of_encode rfl rfl rfl (encR_fields h7 (by bv_omega) ho)

theorem answersOwner_decodeMiscMem (ho : opcodeOf w = 0x0F#7) : AnswersOwner w (decodeMiscMem w) := by
  have bits {f3 : BitVec 3} (h3 : funct3Of w = f3) : w &&& 0x0000707F#32 = place f3 12 ||| place 0x0F#7 0 := by
    rw [and_mask_funct3, h3, ho]
  exact answersOwner_ite (fun h3 => answersOwner_ok rfl rfl (bits h3)) fun _ =>
    answersOwner_ite (fun h3 => answersOwner_ok rfl rfl (bits h3)) fun _ => answersOwner_error _ _

theorem answersOwner_decodeSystem (ho : opcodeOf w = 0x73#7) : AnswersOwner w (decodeSystem w) := by
  unfold decodeSystem
  iterate 2
    refine answersOwner_ite (fun h => answersOwner_of_encode rfl rfl rfl (Eq.symm h)) fun _ => ?_
  iterate 3
    refine answersOwner_ite
      (fun h3 => answersOwner_of_encode_raw rfl rfl rfl (encCsr_fields h3 ho)) fun _ => ?_
  iterate 3
    refine answersOwner_ite
      (fun h3 => answersOwner_of_encode_raw (immUimm_uimmOf w) rfl rfl (encCsr_fields h3 ho)) fun _ => ?_
  exact answersOwner_error _ _

theorem answersOwner_decodeAmo (ho : opcodeOf w = 0x2F#7) : AnswersOwner w (decodeAmo w) := by
  unfold decodeAmo
  refine answersOwner_ite (fun h3 => ?_) fun _ => answersOwner_error _ _
  refine answersOwner_ite (fun h5 => ?_) fun _ => ?_
  · refine answersOwner_ite (fun h2 => answersOwner_of_encode rfl rfl rfl ?_) fun _ => answersOwner_error _ _
    have he := encAmo_fields h5 h3 ho
    rwa [h2] at he
  iterate 10
    refine answersOwner_ite
      (fun h5 => answersOwner_of_encode rfl rfl rfl (encAmo_fields h5 h3 ho)) fun _ => ?_
  exact answersOwner_error _ _

/-- What a word decodes to is an instruction whose word it is. -/
theorem answersOwner_decodeFull (w : Word) : AnswersOwner w (decodeFull w) := by
  unfold decodeFull
  refine answersOwner_ite (fun _ => answersOwner_error _ _) fun _ => ?_
  iterate 2
    refine answersOwner_ite
      (fun ho => answersOwner_of_encode (immUpper_immUOf w) rfl rfl (encU_fields ho)) fun _ => ?_
  refine answersOwner_ite
    (fun ho => answersOwner_of_encode (immJump_immJOf w) rfl rfl (encJ_fields ho)) fun _ => ?_
  refine answersOwner_ite (fun ho => answersOwner_ite
    (fun h3 => answersOwner_of_encode (immSigned12_immIOf w) rfl rfl (encI_fields h3 ho))
    fun _ => answersOwner_error _ _) fun _ => ?_
  refine answersOwner_ite answersOwner_decodeBranch fun _ => ?_
  refine answersOwner_ite answersOwner_decodeLoad fun _ => ?_
  refine answersOwner_ite answersOwner_decodeStore fun _ => ?_
  refine answersOwner_ite answersOwner_decodeOpImm fun _ => ?_
  refine answersOwner_ite answersOwner_decodeOp fun _ => ?_
  refine answersOwner_ite answersOwner_decodeMiscMem fun _ => ?_
  refine answersOwner_ite answersOwner_decodeSystem fun _ => ?_
  exact answersOwner_ite answersOwner_decodeAmo fun _ => answersOwner_error _ _
end

/-! ### The decoder on the words of an instruction -/

section
variable (f7 : BitVec 7) (imm : Word) (rs1 : Reg) (f3 : BitVec 3) (rd : Reg) (op : BitVec 7)

@[simp] theorem opcodeOf_encShamt : opcodeOf (encShamt f7 imm rs1 f3 rd op) = op := opcodeOf_encR ..
@[simp] theorem rdOf_encShamt : rdOf (encShamt f7 imm rs1 f3 rd op) = rd := rdOf_encR ..
@[simp] theorem funct3Of_encShamt : funct3Of (encShamt f7 imm rs1 f3 rd op) = f3 := funct3Of_encR ..
@[simp] theorem rs1Of_encShamt : rs1Of (encShamt f7 imm rs1 f3 rd op) = rs1 := rs1Of_encR ..
@[simp] theorem funct7Of_encShamt : funct7Of (encShamt f7 imm rs1 f3 rd op) = f7 := funct7Of_encR ..

end

/-- A word with another funct3 than 0 is neither ECALL's nor EBREAK's (R88). -/
theorem ne_ecall_ebreak_of_funct3 {w : Word} (h : funct3Of w ≠ 0#3) : w ≠ 0x00000073#32 ∧ w ≠ 0x00100073#32 :=
  ⟨by rintro rfl; exact h rfl, by rintro rfl; exact h rfl⟩

/-- The decoder answers a well-formed instruction that carries its own word on that word. -/
theorem decodeFull_encode {i : Instr} (hwf : i.wellFormed = true) (hraw : i.rawMatches = true) :
    decodeFull (encode i) = .ok i := by
  cases i with
  | lui rd imm => exact (decodeFull_lui (opcodeOf_encU ..)).trans (by simp [immUOf_encU _ _ hwf])
  | auipc rd imm => exact (decodeFull_auipc (opcodeOf_encU ..)).trans (by simp [immUOf_encU _ _ hwf])
  | jal rd imm => exact (decodeFull_jal (opcodeOf_encJ ..)).trans (by simp [immJOf_encJ _ _ hwf])
  | jalr rd rs1 imm =>
    exact (decodeFull_jalr (opcodeOf_encI ..) (funct3Of_encI ..)).trans (by simp [immIOf_encI _ _ _ _ hwf])
  | beq | bne | blt | bge | bltu | bgeu =>
    exact (decodeFull_branch (opcodeOf_encB ..)).trans (by simp [decodeBranch, immBOf_encB _ _ _ _ hwf])
  | lb | lh | lw | lbu | lhu =>
    exact (decodeFull_load (opcodeOf_encI ..)).trans (by simp [decodeLoad, immIOf_encI _ _ _ _ hwf])
  | sb | sh | sw =>
    exact (decodeFull_store (opcodeOf_encS ..)).trans (by simp [decodeStore, immSOf_encS _ _ _ _ hwf])
  | addi | slti | sltiu | xori | ori | andi =>
    exact (decodeFull_opImm (opcodeOf_encI ..)).trans (by simp [decodeOpImm, immIOf_encI _ _ _ _ hwf])
  | slli | srli | srai =>
    exact (decodeFull_opImm (opcodeOf_encShamt ..)).trans
      (by simp [decodeOpImm, shamtOf_encShamt _ _ _ _ _ hwf])
  | add | sub | sll | slt | sltu | xor | srl | sra | or | and
  | mul | mulh | mulhsu | mulhu | div | divu | rem | remu =>
    exact (decodeFull_op (opcodeOf_encR ..)).trans (by simp [decodeOp])
  | fence | fenceI | ecall | ebreak => rfl
  | csrrw rd rs1 csr raw | csrrs rd rs1 csr raw | csrrc rd rs1 csr raw =>
    obtain rfl : raw = encCsr csr rs1 _ rd := beq_iff_eq.mp hraw
    exact (decodeFull_system (opcodeOf_encCsr ..)).trans (by simp [decodeSystem, ne_ecall_ebreak_of_funct3])
  | csrrwi rd rs1 imm csr raw | csrrsi rd rs1 imm csr raw | csrrci rd rs1 imm csr raw =>
    obtain rfl : raw = encCsr csr rs1 _ rd := beq_iff_eq.mp hraw
    obtain rfl : imm = rs1.setWidth 32 := beq_iff_eq.mp hwf
    exact (decodeFull_system (opcodeOf_encCsr ..)).trans (by simp [decodeSystem, ne_ecall_ebreak_of_funct3])
  | lrW | scW | amoswapW | amoaddW | amoxorW | amoandW | amoorW | amominW | amomaxW | amominuW | amomaxuW =>
    exact (decodeFull_amo (opcodeOf_encAmo ..)).trans (by simp [decodeAmo])

/-! ### A word decodes to the instruction whose word it is (R80 to R90) -/

theorem Instr.readBits_eq_allOnes {i : Instr} (hf : i ≠ .fence) (hfi : i ≠ .fenceI) : i.readBits = 0xFFFFFFFF#32 := by
  unfold readBits
  split
  · exact absurd rfl hf
  · exact absurd rfl hfi
  · rfl

/-- Where no bit is ignored, the only word of an instruction is the encoder's. -/
theorem IsWordOf.encode_eq {w : Word} {i : Instr} (h : IsWordOf w i) (hf : i ≠ .fence) (hfi : i ≠ .fenceI) :
    encode i = w := by
  rw [← h.bits, Instr.readBits_eq_allOnes hf hfi]
  exact BitVec.and_allOnes

theorem isWordOf_fence_iff {w : Word} : IsWordOf w .fence ↔ w &&& 0x0000707F#32 = 0x0000000F#32 :=
  ⟨IsWordOf.bits, fun h => ⟨rfl, rfl, h⟩⟩

theorem isWordOf_fenceI_iff {w : Word} : IsWordOf w .fenceI ↔ w &&& 0x0000707F#32 = 0x0000100F#32 :=
  ⟨IsWordOf.bits, fun h => ⟨rfl, rfl, h⟩⟩

/-! ### Masks and fields: the masked bits of a word fix its fields -/

section
variable {w v : Word}

theorem fields_of_and_opcode (h : w &&& 0x0000007F#32 = v) : opcodeOf w = opcodeOf v := by
  rw [← h, opcodeOf_and]
  exact BitVec.and_allOnes.symm

theorem fields_of_and_funct3 (h : w &&& 0x0000707F#32 = v) : opcodeOf w = opcodeOf v ∧ funct3Of w = funct3Of v := by
  rw [← h, opcodeOf_and, funct3Of_and]
  exact ⟨BitVec.and_allOnes.symm, BitVec.and_allOnes.symm⟩

theorem fields_of_and_funct7 (h : w &&& 0xFE00707F#32 = v) :
    opcodeOf w = opcodeOf v ∧ funct3Of w = funct3Of v ∧ funct7Of w = funct7Of v := by
  rw [← h, opcodeOf_and, funct3Of_and, funct7Of_and]
  exact ⟨BitVec.and_allOnes.symm, BitVec.and_allOnes.symm, BitVec.and_allOnes.symm⟩

theorem fields_of_and_funct5 (h : w &&& 0xF800707F#32 = v) :
    opcodeOf w = opcodeOf v ∧ funct3Of w = funct3Of v ∧ funct5Of w = funct5Of v := by
  rw [← h, opcodeOf_and, funct3Of_and, funct5Of_and]
  exact ⟨BitVec.and_allOnes.symm, BitVec.and_allOnes.symm, BitVec.and_allOnes.symm⟩

theorem fields_of_and_lr (h : w &&& 0xF9F0707F#32 = v) :
    opcodeOf w = opcodeOf v ∧ funct3Of w = funct3Of v ∧ funct5Of w = funct5Of v ∧ rs2Of w = rs2Of v := by
  rw [← h, opcodeOf_and, funct3Of_and, funct5Of_and, rs2Of_and]
  exact ⟨BitVec.and_allOnes.symm, BitVec.and_allOnes.symm, BitVec.and_allOnes.symm, BitVec.and_allOnes.symm⟩

end

theorem decodeFull_of_isWordOf {w : Word} {i : Instr} (h : IsWordOf w i) : decodeFull w = .ok i := by
  by_cases hmisc : i = .fence ∨ i = .fenceI
  · obtain rfl | rfl := hmisc <;>
    · obtain ⟨ho, h3⟩ := fields_of_and_funct3 h.bits
      rw [decodeFull_miscMem ho, decodeMiscMem, h3]
      rfl
  · obtain ⟨hf, hfi⟩ := not_or.mp hmisc
    rw [← h.encode_eq hf hfi]
    exact decodeFull_encode h.wellFormed h.rawMatches

/-- The decoder of the full set answers an instruction exactly on its words. -/
theorem decodeFull_ok_iff {w : Word} {i : Instr} : decodeFull w = .ok i ↔ IsWordOf w i :=
  ⟨answersOwner_decodeFull w i, decodeFull_of_isWordOf⟩

/-- The decoder of the enabled set answers an instruction exactly on its words, where its capability is built in (R74). -/
theorem decodeWord_ok_iff {cfg : Config} {w : Word} {i : Instr} :
    decodeWord cfg w = .ok i ↔ IsWordOf w i ∧ cfg.has i.capability = true := by
  rw [← decodeFull_ok_iff]
  refine ⟨Machine.decodeWord_ok, fun ⟨hfull, hcap⟩ => ?_⟩
  rw [decodeWord, hfull]
  exact if_pos hcap

/-! ### The decoded record (R70 to R72, R80, R91) -/

theorem decodeOperation_of_ok {cfg : Config} {w : Word} {i : Instr} (h : decodeWord cfg w = .ok i) :
    decodeOperation cfg w = recordOf w i.kind i.imm := by
  rw [decodeOperation, h]

theorem decodeOperation_of_error {cfg : Config} {w : Word} {r : Reject} (h : decodeWord cfg w = .error r) :
    decodeOperation cfg w = recordOf w .invalid 0 := by
  rw [decodeOperation, h]

/-- The decoded record is filled from the word, whatever its kind. -/
theorem decodeOperation_eq_recordOf (cfg : Config) (w : Word) :
    ∃ kind imm, decodeOperation cfg w = recordOf w kind imm := by
  unfold decodeOperation
  split <;> exact ⟨_, _, rfl⟩

/-- The record reads as the instruction the word decodes to, and as none where there is none (R72, R91). -/
theorem instr_decodeOperation (cfg : Config) (w : Word) :
    (decodeOperation cfg w).instr = (decodeWord cfg w).toOption := by
  cases h : decodeWord cfg w with
  | ok i =>
    obtain ⟨hfull, -⟩ := Machine.decodeWord_ok h
    rw [decodeOperation_of_ok h]
    exact recordFits_decodeFull w i hfull
  | error r => rw [decodeOperation_of_error h]; rfl

theorem decodeWord_ok_iff_instr {cfg : Config} {w : Word} {i : Instr} :
    decodeWord cfg w = .ok i ↔ (decodeOperation cfg w).instr = some i := by
  rw [instr_decodeOperation]
  cases decodeWord cfg w <;> simp [Except.toOption]

theorem wellFormed_decodeOperation (cfg : Config) (w : Word) : (decodeOperation cfg w).wellFormed = true := by
  unfold Operation.wellFormed
  split
  · next i hi => exact (decodeWord_ok_iff.mp (decodeWord_ok_iff_instr.mpr hi)).1.wellFormed
  · rfl

theorem kind_decodeOperation_eq_invalid_iff {cfg : Config} {w : Word} :
    (decodeOperation cfg w).kind = .invalid ↔ ¬ ∃ i, decodeWord cfg w = .ok i := by
  constructor
  · rintro hkind ⟨i, h⟩
    have hinstr := decodeWord_ok_iff_instr.mp h
    rw [Operation.instr, hkind] at hinstr
    cases hinstr
  · intro hnone
    cases h : decodeWord cfg w with
    | ok i => exact absurd ⟨i, h⟩ hnone
    | error e => rw [decodeOperation_of_error h]; rfl

theorem raw_decodeOperation (cfg : Config) (w : Word) : (decodeOperation cfg w).raw = w := by
  obtain ⟨kind, imm, e⟩ := decodeOperation_eq_recordOf cfg w
  rw [e]; rfl

end Sys2Proof
end

section
/-! SUPPORT. The rows of the opcode tables: a word that a row selects decodes to an instruction of the row's capability, and a
word that decodes is selected by its instruction's row (30_encoding.md rules R74 and R83 to R91). -/

namespace Sys2Proof

open Machine

/-! ### From a row to an instruction -/

section
variable {w : Word} {r : OpcodeRow}

theorem capability_of_rowsJump (hr : r ∈ rowsJump) (h : w &&& r.mask = r.value) :
    (decodeFull w).toOption.map Instr.capability = some r.cap := by
  simp only [rowsJump, List.mem_cons, List.not_mem_nil, or_false] at hr
  obtain rfl | rfl | rfl | rfl | hr := hr
  · rw [decodeFull_lui (fields_of_and_opcode h)]; rfl
  · rw [decodeFull_auipc (fields_of_and_opcode h)]; rfl
  · rw [decodeFull_jal (fields_of_and_opcode h)]; rfl
  · obtain ⟨ho, h3⟩ := fields_of_and_funct3 h
    rw [decodeFull_jalr ho h3]; rfl
  · obtain rfl | rfl | rfl | rfl | rfl | rfl := hr <;>
    · obtain ⟨ho, h3⟩ := fields_of_and_funct3 h
      rw [decodeFull_branch ho, decodeBranch, h3]; rfl

theorem capability_of_rowsMemory (hr : r ∈ rowsMemory) (h : w &&& r.mask = r.value) :
    (decodeFull w).toOption.map Instr.capability = some r.cap := by
  fin_cases hr <;> obtain ⟨ho, h3⟩ := fields_of_and_funct3 h
  iterate 5 rw [decodeFull_load ho, decodeLoad, h3]; rfl
  iterate 3 rw [decodeFull_store ho, decodeStore, h3]; rfl

theorem capability_of_rowsOpImm (hr : r ∈ rowsOpImm) (h : w &&& r.mask = r.value) :
    (decodeFull w).toOption.map Instr.capability = some r.cap := by
  fin_cases hr
  iterate 6
    obtain ⟨ho, h3⟩ := fields_of_and_funct3 h
    rw [decodeFull_opImm ho, decodeOpImm, h3]; rfl
  iterate 3
    obtain ⟨ho, h3, h7⟩ := fields_of_and_funct7 h
    rw [decodeFull_opImm ho, decodeOpImm, h3, h7]; rfl

theorem capability_of_rowsOp_rowsMulDiv (hr : r ∈ rowsOp ++ rowsMulDiv) (h : w &&& r.mask = r.value) :
    (decodeFull w).toOption.map Instr.capability = some r.cap := by
  fin_cases hr <;>
  · obtain ⟨ho, h3, h7⟩ := fields_of_and_funct7 h
    rw [decodeFull_op ho, decodeOp, h3, h7]; rfl

theorem capability_of_rowsSystem (hr : r ∈ rowsSystem) (h : w &&& r.mask = r.value) :
    (decodeFull w).toOption.map Instr.capability = some r.cap := by
  simp only [rowsSystem, List.mem_cons, List.not_mem_nil, or_false] at hr
  obtain rfl | rfl | rfl | rfl | hr := hr
  · obtain ⟨ho, h3⟩ := fields_of_and_funct3 h
    rw [decodeFull_miscMem ho, decodeMiscMem, h3]; rfl
  · obtain rfl : w = 0x00000073#32 := BitVec.and_allOnes.symm.trans h
    rfl
  · obtain rfl : w = 0x00100073#32 := BitVec.and_allOnes.symm.trans h
    rfl
  · obtain ⟨ho, h3⟩ := fields_of_and_funct3 h
    rw [decodeFull_miscMem ho, decodeMiscMem, h3]; rfl
  · obtain rfl | rfl | rfl | rfl | rfl | rfl := hr <;>
    · obtain ⟨ho, h3⟩ := fields_of_and_funct3 h
      obtain ⟨hecall, hebreak⟩ := ne_ecall_ebreak_of_funct3 (w := w) (by rw [h3]; decide)
      rw [decodeFull_system ho, decodeSystem, if_neg hecall, if_neg hebreak, h3]; rfl

theorem capability_of_rowsAtomic (hr : r ∈ rowsAtomic) (h : w &&& r.mask = r.value) :
    (decodeFull w).toOption.map Instr.capability = some r.cap := by
  fin_cases hr
  · obtain ⟨ho, h3, h5, h2⟩ := fields_of_and_lr h
    rw [decodeFull_amo ho, decodeAmo, h3, h5, h2]; rfl
  iterate 10
    obtain ⟨ho, h3, h5⟩ := fields_of_and_funct5 h
    rw [decodeFull_amo ho, decodeAmo, h3, h5]; rfl

/-- A word whose masked bits are a row's decodes to an instruction of the row's capability. -/
theorem capability_of_opcodeRows (hr : r ∈ opcodeRows) (h : w &&& r.mask = r.value) :
    (decodeFull w).toOption.map Instr.capability = some r.cap := by
  simp only [opcodeRows, List.mem_append] at hr
  obtain (((((hr | hr) | hr) | hr) | hr) | hr) | hr := hr
  · exact capability_of_rowsJump hr h
  · exact capability_of_rowsMemory hr h
  · exact capability_of_rowsOpImm hr h
  · exact capability_of_rowsOp_rowsMulDiv (List.mem_append_left _ hr) h
  · exact capability_of_rowsSystem hr h
  · exact capability_of_rowsOp_rowsMulDiv (List.mem_append_right _ hr) h
  · exact capability_of_rowsAtomic hr h

end

/-! ### From an instruction to its row -/

/-- The row of an instruction, as spec/opcode_table.json gives it. -/
def Instr.row (i : Instr) : OpcodeRow := ⟨Laws.EncodingRow.rowMask i, Laws.EncodingRow.rowMatch i, i.capability⟩

theorem Instr.row_mem_opcodeRows (i : Instr) : i.row ∈ opcodeRows := by
  cases i <;> exact List.mem_of_elem_eq_true rfl

open Laws.EncodingRow in
/-- The encoder's word of every instruction is in the instruction's row. -/
theorem encode_and_rowMask (i : Instr) : encode i &&& i.row.mask = i.row.value := by
  cases i
  exacts [
    lui .., auipc .., jal .., jalr .., beq .., bne .., blt .., bge .., bltu .., bgeu .., lb .., lh .., lw ..,
    lbu .., lhu .., sb .., sh .., sw .., addi .., slti .., sltiu .., xori .., ori .., andi .., slli ..,
    srli .., srai .., add .., sub .., sll .., slt .., sltu .., xor .., srl .., sra .., or .., and .., fence,
    ecall, ebreak, fenceI, csrrw .., csrrs .., csrrc .., csrrwi .., csrrsi .., csrrci .., mul .., mulh ..,
    mulhsu .., mulhu .., div .., divu .., rem .., remu .., lrW .., scW .., amoswapW .., amoaddW ..,
    amoxorW .., amoandW .., amoorW .., amominW .., amomaxW .., amominuW .., amomaxuW ..]

/-- Every word of an instruction is in the instruction's row. -/
theorem IsWordOf.and_rowMask {w : Word} {i : Instr} (h : IsWordOf w i) : w &&& i.row.mask = i.row.value := by
  by_cases hmisc : i = .fence ∨ i = .fenceI
  · obtain rfl | rfl := hmisc <;> exact h.bits
  · obtain ⟨hf, hfi⟩ := not_or.mp hmisc
    rw [← h.encode_eq hf hfi]
    exact encode_and_rowMask i

/-- A word decodes to an instruction exactly when some row of the built-in capabilities selects it (R74, R91). -/
theorem exists_decodeWord_ok_iff {cfg : Config} {w : Word} :
    (∃ i, decodeWord cfg w = .ok i) ↔ ∃ r ∈ opcodeRows, r.Selects cfg w := by
  constructor
  · rintro ⟨i, h⟩
    obtain ⟨hword, hcap⟩ := decodeWord_ok_iff.mp h
    exact ⟨i.row, i.row_mem_opcodeRows, hcap, hword.and_rowMask⟩
  · rintro ⟨r, hr, hcap, h⟩
    have hrow := capability_of_opcodeRows hr h
    cases hfull : decodeFull w with
    | ok i =>
      rw [hfull] at hrow
      have hi : i.capability = r.cap := Option.some.inj hrow
      exact ⟨i, decodeWord_ok_iff.mpr ⟨decodeFull_ok_iff.mp hfull, hi ▸ hcap⟩⟩
    | error e => rw [hfull] at hrow; cases hrow

/-- Any two rows disagree on a bit that both of them fix. -/
theorem opcodeRows_apart :
    opcodeRows.Pairwise fun r q => r.value &&& q.mask ≠ q.value &&& r.mask := by decide

end Sys2Proof
end

section
/-! CERTIFICATE. Encoding (R70 to R91): decoder and encoder agree, the decoded record, and the rows of the opcode tables. -/

namespace Sys2Proof

open Machine

/-- Settles O1: the encoder's word of an instruction is one of its words. -/
theorem decodeOfEncodeIsIdentity : Obligations.DecodeOfEncodeIsIdentity :=
  fun _ _ hwf hraw hcap => decodeWord_ok_iff.mpr ⟨decodeFull_ok_iff.mp (decodeFull_encode hwf hraw), hcap⟩

/-- Settles O2: a word decodes only to an instruction whose word it is. -/
theorem decodedInstructionsAreWellFormed : Obligations.DecodedInstructionsAreWellFormed := by
  intro cfg w i h
  obtain ⟨hword, hcap⟩ := decodeWord_ok_iff.mp h
  exact ⟨hword.wellFormed, hword.rawMatches, hcap⟩

/-- Settles O3: only FENCE and FENCE.I have other words than the encoder's, those with the same opcode and funct3. -/
theorem encodeOfDecodedIsTheWord : Obligations.EncodeOfDecodedIsTheWord := by
  intro cfg w
  refine ⟨fun i h => (decodeWord_ok_iff.mp h).1.encode_eq, ?_, ?_⟩
  · rw [decodeWord_ok_iff, isWordOf_fence_iff]
    exact and_iff_left rfl
  · rw [decodeWord_ok_iff, isWordOf_fenceI_iff]
    exact and_comm

/-- Settles O4: whether or not the word is an instruction, the record is filled from it. -/
theorem decodedRecordCarriesItsWord : Obligations.DecodedRecordCarriesItsWord := by
  intro cfg w
  have hkind : ∀ i, decodeWord cfg w = .ok i →
      (decodeOperation cfg w).kind = i.kind ∧ (decodeOperation cfg w).imm = i.imm := by
    intro i h
    rw [decodeOperation_of_ok h]
    exact ⟨rfl, rfl⟩
  have hwf := wellFormed_decodeOperation cfg w
  have hiff (i) := decodeWord_ok_iff_instr (cfg := cfg) (w := w) (i := i)
  obtain ⟨kind, imm, e⟩ := decodeOperation_eq_recordOf cfg w
  rw [e] at hkind hwf hiff ⊢
  exact ⟨rfl, rfl, rfl, rfl, rfl, rfl, rfl, rfl, hiff, hkind, hwf⟩

/-- Settles O5: the kind is INVALID exactly when the word decodes to nothing, and a word decodes exactly when a row selects
it. -/
theorem invalidExactlyWhenNoRowSelects : Obligations.InvalidExactlyWhenNoRowSelects := by
  intro cfg w
  refine ⟨raw_decodeOperation cfg w, ?_⟩
  rw [kind_decodeOperation_eq_invalid_iff, exists_decodeWord_ok_iff]
  simp only [not_exists, not_and]

/-- Settles O6: on a word of both rows the bits that both fix would agree. -/
theorem rowsDoNotOverlap : Obligations.RowsDoNotOverlap := by
  refine opcodeRows_apart.imp ?_
  rintro r q hne w ⟨hr, hq⟩
  apply hne
  rw [← hr, ← hq, BitVec.and_assoc, BitVec.and_assoc, BitVec.and_comm q.mask]

end Sys2Proof
end

section
/-! CERTIFICATE. Hints (R92) and the trap on a word that is no instruction (R79, R91, R109). -/

namespace Sys2Proof.Machine

/-! ### Hints (R92) -/

/-- A kind of the LUI, AUIPC, OP-IMM and OP opcodes only writes its destination register. -/
theorem writesRegister_of_isHintKind {i : Instr} {s : State} (hhint : isHintKind i = true) (hready : s.Ready i.capability) :
    ∃ rd v, i.dest = some rd ∧ WritesRegister i s rd v := by
  cases i with
  | lui rd imm =>
    exact ⟨_, _, rfl, writesRegister_of_cont_setReg (handler := fun s => .cont (s.setReg rd imm)) rfl hready rfl⟩
  | auipc rd imm =>
    exact ⟨_, _, rfl,
      writesRegister_of_cont_setReg (handler := fun s => .cont (s.setReg rd (s.hart.pc + imm))) rfl hready rfl⟩
  | addi | slti | sltiu | xori | ori | andi | slli | srli | srai =>
    exact ⟨_, _, rfl, writesRegister_of_cont_setReg (handler := regImm _ _ _ _) rfl hready rfl⟩
  | add | sub | sll | slt | sltu | xor | srl | sra | or | and
  | mul | mulh | mulhsu | mulhu | div | divu | rem | remu =>
    exact ⟨_, _, rfl, writesRegister_of_cont_setReg (handler := regReg _ _ _ _) rfl hready rfl⟩
  | _ => cases hhint

/-- x0 reads 0 whatever is written to it (R21). -/
theorem RegsKept.of_dest_zero {s t : State} (h : RegsKept s t (some 0)) : RegsKept s t none := by
  intro r _
  by_cases hr : r = 0
  · subst hr; rfl
  · exact h r fun e => hr (Option.some.inj e).symm

/-- Settles O13: the one register that a hint writes is x0. -/
theorem hintsOnlyAdvancePc : Obligations.HintsOnlyAdvancePc := by
  intro i s hhint hdest hready
  obtain ⟨rd, v, hrd, t, hexec, -, hcont, hframe⟩ := writesRegister_of_isHintKind hhint hready
  obtain rfl : rd = 0 := Option.some.inj (hrd.symm.trans hdest)
  exact ⟨t, hexec, hcont, { hframe with regs := hframe.regs.of_dest_zero }⟩

/-! ### A fetched word that is no instruction (R79, R91, R109) -/

/-- An `execute` whose fetch succeeds runs the fetched Operation (R103). -/
theorem execute_of_loaded {s : State} {op : Operation} (hd : s.hart.defect = false) (hf : s.hart.fetched = none)
    (hl : loadInstruction s = .ok op) : execute s = executeOp op s := by
  rw [execute, if_neg (by simp [hd]), hf]
  dsimp only
  rw [hl]

/-- The kind INVALID traps with the word it carries (R109). -/
theorem executeOp_of_instr_none {op : Operation} {s : State} (hd : s.hart.defect = false) (h : op.instr = none) :
    executeOp op s = .next (s.takeTrap .illegalInstruction op.raw) := by
  rw [executeOp, h]
  exact runOp_ready (cap := .base) _ ⟨hd, rfl⟩

/-- A word read from memory is its four bytes put together (R48). -/
theorem readLE_four (m : Memory) (a : Nat) :
    Memory.readLE m a 4 =
      wordOfBytes (Memory.read m a) (Memory.read m (a + 1)) (Memory.read m (a + 2)) (Memory.read m (a + 3)) := by
  simp only [Memory.readLE, wordOfBytes, place, Nat.add_assoc, Nat.reduceAdd]
  ext i hi
  interval_cases i <;> simp

/-- The decoder on the four bytes at pc rejects what it rejects as the word there. -/
theorem decodeWord_error_of_fetchBytes {s : State} {r : Reject} (h : decodeBytes s.cfg (fetchBytes s) = .error r) :
    decodeWord s.cfg (Memory.readLE s.mem s.hart.pc.toNat 4) = .error r := by
  rw [readLE_four]
  unfold fetchBytes decodeBytes at h
  dsimp only at h
  split at h
  · cases h
  · next e he => cases h; exact he

/-- Settles O48: the record of a rejected word reads as no instruction and carries the word. -/
theorem stepTrapsOnInvalidWords : Obligations.StepTrapsOnInvalidWords := by
  intro s r hd hf hok hbytes
  have hnone : (decodeOperation s.cfg (Memory.readLE s.mem s.hart.pc.toNat 4)).instr = none := by
    rw [instr_decodeOperation, decodeWord_error_of_fetchBytes hbytes]
    rfl
  have hexec := executeOp_of_instr_none hd hnone
  rw [raw_decodeOperation, readLE_eq_ofNat_bytesAt] at hexec
  refine ⟨_, ?_, traps_takeTrap _ _ _⟩
  rw [execute_of_loaded hd hf (loadInstruction_ok hok), readLE_eq_ofNat_bytesAt, hexec]

end Sys2Proof.Machine
end

section
/-! SUPPORT. Dispatch: every call of a hart that is not defective returns, no call with a built-in Operation sets the defect
flag, what a step with nothing queued does, and which action a driver's input is. -/

namespace Sys2Proof.Machine

/-! ### A call on a hart that is not defective returns (R104, R346) -/

theorem exists_next_runOp {s : State} (hd : s.hart.defect = false) (cap : Capability) (handler : State → Result) :
    ∃ t, runOp cap s handler = .next t := by
  obtain ⟨htrue, -⟩ | ⟨-, -, e⟩ | ⟨-, e⟩ := runOp_cases cap s handler
  · rw [hd] at htrue; cases htrue
  · exact ⟨_, e⟩
  · exact ⟨_, e⟩

theorem executeOp_of_instr_some {op : Operation} {s : State} {i : Instr} (h : op.instr = some i) :
    executeOp op s = exec i s := by
  rw [executeOp, h]

theorem exists_next_executeOp {s : State} (hd : s.hart.defect = false) (op : Operation) :
    ∃ t, executeOp op s = .next t := by
  cases hi : op.instr with
  | none => exact ⟨_, executeOp_of_instr_none hd hi⟩
  | some i =>
    obtain ⟨handler, e, -⟩ := exec_eq_runOp s i
    rw [executeOp_of_instr_some hi, e]
    exact exists_next_runOp hd _ _

theorem exists_next_execute {s : State} (hd : s.hart.defect = false) : ∃ t, execute s = .next t := by
  cases hf : s.hart.fetched with
  | some op =>
    rw [execute_of_fetched hd hf]
    exact exists_next_executeOp (s := s.setFetched none) hd op
  | none =>
    cases hl : loadInstruction s with
    | error f => exact ⟨_, execute_of_fetch_error hd hf hl⟩
    | ok op =>
      rw [execute_of_loaded hd hf hl]
      exact exists_next_executeOp hd op

theorem runHart_of_execute {s t : State} (h : execute s = .next t) : runHart s = .next t.haltOnTrap := by
  rw [runHart, h, driver]

theorem exists_next_runHart {s : State} (hd : s.hart.defect = false) : ∃ t, runHart s = .next t := by
  obtain ⟨t, ht⟩ := exists_next_execute hd
  exact ⟨_, runHart_of_execute ht⟩

/-- The event of a fetch that fails ends the call (R55). -/
theorem eventHart_of_fetch_error {s : State} {f : MemFault} (hf : s.hart.fetched = none)
    (hl : loadInstruction s = .error f) : eventHart s = runHart s := by
  rw [eventHart, hf]
  dsimp only
  rw [hl]

theorem exists_next_eventHart {s : State} (hd : s.hart.defect = false) : ∃ t, eventHart s = .next t := by
  cases hf : s.hart.fetched with
  | some op =>
    rw [eventHart_of_fetched hf]
    exact exists_next_runHart hd
  | none =>
    cases hl : loadInstruction s with
    | error f =>
      rw [eventHart_of_fetch_error hf hl]
      exact exists_next_runHart hd
    | ok op => exact ⟨_, eventHart_of_loaded hf hl⟩

/-! ### The defect flag after a call (R104, R108) -/

/-- A hart whose kind is not built in gets its defect flag set (R104, R108). -/
theorem exec_of_not_built {i : Instr} {s : State} (hd : s.hart.defect = false) (hc : s.cfg.has i.capability = false) :
    exec i s = .next s.raiseDefect := by
  obtain ⟨handler, e, -⟩ := exec_eq_runOp s i
  simp [e, runOp, hd, hc]

/-- A handler and the pc policy leave the defect flag alone. -/
theorem HandlerAnswer.defect_retire {s : State} {cap : Capability} {r : Result} (h : HandlerAnswer s cap r) :
    (retire s r).hart.defect = s.hart.defect := by
  cases h with
  | store | conditionalStore | update => simp [retire]
  | nothing | writeReg | trap | jump | link | csrWritten | csrRead | reserve => rfl

theorem defect_executeOp {op : Operation} {s t : State} (hb : BuiltIn s.cfg op) (h : executeOp op s = .next t) :
    t.hart.defect = false := by
  obtain ⟨hd, -⟩ := executeOp_next h
  cases hi : op.instr with
  | none =>
    rw [executeOp_of_instr_none hd hi] at h
    cases h
    exact hd
  | some i =>
    obtain ⟨handler, e, ha⟩ := exec_eq_runOp s i
    rw [executeOp_of_instr_some hi, e, runOp_ready handler ⟨hd, hb i hi⟩] at h
    cases h
    exact ha.defect_retire.trans hd

theorem defect_execute {s t : State} (hb : ∀ op, s.hart.fetched = some op → BuiltIn s.cfg op)
    (h : execute s = .next t) : t.hart.defect = false := by
  obtain ⟨hd, ⟨f, -, -, rfl⟩ | ⟨op, hf, hop⟩ | ⟨op, -, hl, hop⟩⟩ := execute_next h
  · exact hd
  · exact defect_executeOp (s := s.setFetched none) (hb op hf) hop
  · exact defect_executeOp (builtIn_loadInstruction hl) hop

/-- A move of one hart that is no direct call leaves that hart sound where the remembered Operation is built in. -/
theorem defect_focusMove {k : Nat} {u t : State} {i : Option Input} (hu : u.Inv)
    (hcall : ∀ j op, i ≠ some (.call j op)) (h : FocusMove k u i t) (hd : u.hart.defect = false) :
    t.hart.defect = false := by
  have sound_of_runHart (hrun : runHart u = .next t) : t.hart.defect = false := by
    obtain ⟨v, hv, rfl⟩ := runHart_next hrun
    rw [v.haltOnTrap_hart_defect]
    exact defect_execute hu.hart.fetched hv
  cases h with
  | run _ _ h => exact sound_of_runHart h
  | event _ _ h =>
    obtain ⟨op, -, -, rfl⟩ | h := eventHart_next h
    · exact hd
    · exact sound_of_runHart h
  | call => exact absurd rfl (hcall _ _)
  | idle | contextSwitch | resume | csrUnit => exact hd

/-! ### The harts after a step -/

/-- Whatever a move does to the hart in focus, the other harts lose their reservations at most (R20, R27). -/
theorem othersLoseSlots_focusMove {k : Nat} {u t : State} {i : Option Input} (h : FocusMove k u i t) :
    OthersLoseSlots u t := by
  cases h with
  | run _ _ h => exact runHart_othersLoseSlots h
  | event _ _ h =>
    obtain ⟨op, -, -, rfl⟩ | h := eventHart_next h
    · exact othersLoseSlots_of_eq rfl rfl ⟨rfl, rfl, rfl⟩
    · exact runHart_othersLoseSlots h
  | call _ h => exact executeOp_othersLoseSlots h
  | idle | contextSwitch | resume | csrUnit => exact othersLoseSlots_of_eq rfl rfl ⟨rfl, rfl, rfl⟩

/-- What holds of the hart in focus, and of every hart that loses its reservation at most, holds of all harts. -/
theorem OthersLoseSlots.forall₂_harts {R : Hart → Hart → Prop} {s t : State} (h : OthersLoseSlots s t)
    (hothers : ∀ x y, x.LosesSlot y → R x y) (hhart : R s.hart t.hart) : List.Forall₂ R s.harts t.harts :=
  List.rel_append (h.below.imp hothers) (.cons hhart (h.above.imp hothers))

/-- A hart that is not defective stays so. -/
def Hart.SoundKept (h h' : Hart) : Prop := h.defect = false → h'.defect = false

theorem Hart.LosesSlot.soundKept {h h' : Hart} (hl : h.LosesSlot h') : h.SoundKept h' := by
  obtain ⟨hsame, -⟩ := hl
  rw [hsame]
  exact id

/-- A hart that its driver has halted loses its reservation at most (R112). -/
def Hart.HaltedStays (h h' : Hart) : Prop := h.halted.isSome = true → h.LosesSlot h'

/-- The reset input acts on every hart by its number (R340). -/
theorem State.harts_resetInput (s : State) :
    s.resetInput.harts = s.harts.mapIdx fun k h => h.resetInput s.tick k := by
  simp [harts, resetInput, List.mapIdx_append, List.mapIdx_cons, Nat.add_comm, Nat.add_left_comm]

/-! ### Choosing a hart (R55, R112) -/

/-- Every hart of the system can be put in focus (R328). -/
theorem State.exists_focus {s : State} {k : Nat} {h : Hart} (hk : s.harts[k]? = some h) : ∃ u, s.focus k = some u := by
  unfold focus
  split
  · next hnil =>
    have hlt : k < s.harts.length := (List.getElem?_eq_some_iff.mp hk).1
    exact absurd (List.drop_eq_nil_iff.mp hnil) (by omega)
  · exact ⟨_, rfl⟩

/-- An action that answers a next state on every hart that can move does so on a hart chosen among those. -/
theorem exists_next_onHart {k : Nat} {s : State} {act : State → Host.Outcome State Fault Refusal}
    (hk : k ∈ movableFrom 0 s.harts) (hact : ∀ u, u.hart.canMove = true → ∃ t, act u = .next t) :
    ∃ t, onHart k s act = .next t := by
  obtain ⟨n, x, hn, hx, -⟩ := canMove_of_mem_movableFrom hk
  obtain rfl : k = n := by omega
  obtain ⟨u, hu⟩ := State.exists_focus hx
  rw [onHart_of_focus hu]
  exact hact u (State.canMove_of_focus hu hk)

/-- No hart is listed as movable exactly when none can move. -/
theorem movableFrom_eq_nil_iff {hs : List Hart} {k : Nat} :
    movableFrom k hs = [] ↔ ∀ h ∈ hs, h.canMove = false := by
  induction hs generalizing k with
  | nil => simp [movableFrom]
  | cons x xs ih => cases hx : x.canMove <;> simp [movableFrom, hx, ih]

theorem Hart.canMove_of_halted {h : Hart} (hh : h.halted.isSome = true) : h.canMove = false := by
  rw [canMove, Bool.and_eq_false_iff, Option.isNone_eq_false_iff]
  exact .inr hh

/-- With some hart able to move, the free choice is the whole call or one event of such a hart (R55). -/
theorem freeMove_of_movable {tick : Nat} {s : State} (h : movableFrom 0 s.harts ≠ []) :
    ∃ k ∈ movableFrom 0 s.harts, freeMove tick s = onHart k s runHart ∨ freeMove tick s = onHart k s eventHart := by
  unfold freeMove
  split
  · next hnil => exact absurd hnil h
  · next k hk => exact ⟨k, by simp [hk], .inl rfl⟩
  · next k k' ks hk =>
    have hlt : Config.freeHart tick % (ks.length + 2) < (k :: k' :: ks).length := Nat.mod_lt _ (by omega)
    refine ⟨(k :: k' :: ks).getD (Config.freeHart tick % (ks.length + 2)) k, ?_, ?_⟩
    · rw [hk, List.getD_eq_getElem _ _ hlt]
      exact List.getElem_mem hlt
    · split
      · exact .inr rfl
      · exact .inl rfl

theorem exists_next_freeMove {tick : Nat} {s : State} (h : movableFrom 0 s.harts ≠ []) :
    ∃ t, freeMove tick s = .next t := by
  obtain ⟨k, hk, e | e⟩ := freeMove_of_movable (tick := tick) h <;> rw [e]
  · exact exists_next_onHart hk fun u hu => exists_next_runHart (Hart.defect_of_canMove hu)
  · exact exists_next_onHart hk fun u hu => exists_next_eventHart (Hart.defect_of_canMove hu)

/-- With no hart able to move, a defective one makes the step a refusal, and otherwise the run has ended (R112). -/
theorem freeMove_of_none_movable {tick : Nat} {s : State} (h : movableFrom 0 s.harts = []) :
    freeMove tick s = if s.harts.any (fun h => h.defect) then .refused .defect else .fault .allHalted := by
  rw [freeMove, h]

/-- With one hart able to move there is nothing to choose (R55). -/
theorem freeMove_of_one_movable {tick k : Nat} {s : State} (h : movableFrom 0 s.harts = [k]) :
    freeMove tick s = onHart k s runHart := by
  rw [freeMove, h]

/-! ### Which action a step is (R55, R112) -/

/-- A step with nothing queued is a free move. -/
theorem step_of_inputs_nil {s : State} (h : s.inputs = []) : step s = freeMove s.tick s.begin := by
  rw [step, systemStep, h]

/-- A queued run of a hart that can move happens with that hart in focus. -/
theorem step_run {s u : State} {k : Nat} (hfocus : s.begin.focus k = some u)
    (hinput : s.inputs.head? = some (.run k)) (hmove : u.hart.canMove = true) : step s = runHart u := by
  rw [step_of_head? hinput, applyInput, onHart_of_focus hfocus, if_pos hmove]

/-- A driver's input to a hart that cannot move does nothing (R55, R112). -/
theorem step_idle {s u : State} {k : Nat} (hfocus : s.begin.focus k = some u)
    (hinput : s.inputs.head? = some (.run k) ∨ s.inputs.head? = some (.event k)) (hmove : u.hart.canMove = false) :
    step s = .next u := by
  have hnot : ¬ u.hart.canMove = true := by simp [hmove]
  obtain hinput | hinput := hinput <;>
    rw [step_of_head? hinput, applyInput, onHart_of_focus hfocus, if_neg hnot]

/-- A call that traps halts the hart (R112). -/
theorem State.haltOnTrap_hart_halted_of_trapped {s : State} {c : Cause} {v : Word}
    (h : s.hart.outcome = some (.trapped c v)) : s.haltOnTrap.hart.halted = some (c, v) := by
  rw [haltOnTrap, h]

/-- The decoder on the four bytes at pc reads the instruction of the word there. -/
theorem decodeWord_ok_of_fetchBytes {s : State} {i : Instr} {bs : List Byte}
    (h : decodeBytes s.cfg (fetchBytes s) = .ok (i, bs)) :
    decodeWord s.cfg (Memory.readLE s.mem s.hart.pc.toNat 4) = .ok i := by
  rw [readLE_four]
  unfold fetchBytes decodeBytes at h
  dsimp only at h
  split at h
  · next j hj => cases h; exact hj
  · cases h

/-- An `execute` whose fetched bytes decode to an instruction is `exec` of it (R103, R104). -/
theorem execute_of_decoded {s : State} {i : Instr} {bs : List Byte} (hd : s.hart.defect = false)
    (hf : s.hart.fetched = none) (hok : AccessOk s s.hart.pc .word [.fetch])
    (hbytes : decodeBytes s.cfg (fetchBytes s) = .ok (i, bs)) : execute s = exec i s := by
  have hinstr := decodeWord_ok_iff_instr.mp (decodeWord_ok_of_fetchBytes hbytes)
  rw [execute_of_loaded hd hf (loadInstruction_ok hok), executeOp_of_instr_some hinstr]

end Sys2Proof.Machine
end

section
/-! CERTIFICATE. Dispatch (R74, R103 to R109, R112): INVALID, the defect flag, the reference driver and the end of a run. -/

namespace Sys2Proof.Machine

/-- Settles O22: the record of an unselected word is of kind INVALID and carries the word. -/
theorem invalidAlwaysTraps : Obligations.InvalidAlwaysTraps := by
  intro s hd
  have htraps (op : Operation) (hop : op.kind = .invalid) :
      ∃ t, executeOp op s = .next t ∧ Traps s t .illegalInstruction op.raw := by
    have hnone : op.instr = none := by rw [Operation.instr, hop]
    exact ⟨_, executeOp_of_instr_none hd hnone, traps_takeTrap _ _ _⟩
  refine ⟨htraps, fun w hw => ?_⟩
  obtain ⟨hraw, hinvalid⟩ := invalidExactlyWhenNoRowSelects s.cfg w
  simpa only [hraw] using htraps (decodeOperation s.cfg w) (hinvalid.mpr hw)

/-- Settles O44: the capability check comes before the handler. -/
theorem disabledKindSetsDefect : Obligations.DisabledKindSetsDefect :=
  fun _ _ hd hc => ⟨_, exec_of_not_built hd hc, rfl, rfl, rfl⟩

/-- Settles O45: the decoder answers only what is built in, and the invariant says so of what a hart remembers; the reset
input and an agent's store set no flag. -/
theorem executeNeverSetsDefect : Obligations.ExecuteNeverSetsDefect := by
  refine ⟨fun s t hb h => defect_execute hb h, ?_⟩
  intro s t k h h' hs hcall hstep hk hk' hd
  have sound_of_forall₂ (hall : List.Forall₂ Hart.SoundKept s.harts t.harts) : h'.defect = false := by
    obtain ⟨y, hy, hkept⟩ := exists_getElem?_of_forall₂ hall hk
    obtain rfl : y = h' := Option.some.inj (hy.symm.trans hk')
    exact hkept hd
  obtain ⟨j, u, hu, hm⟩ | ⟨-, -, rfl⟩ | ⟨addr, w, v, -, rfl | ⟨-, rfl⟩⟩ := step_next hstep
  · obtain ⟨hharts, -⟩ := State.focus_harts hu
    have hall := (othersLoseSlots_focusMove hm).forall₂_harts (fun _ _ => Hart.LosesSlot.soundKept)
      (defect_focusMove (hs.begin.focus hu) hcall hm)
    rw [hharts] at hall
    exact sound_of_forall₂ hall
  · rw [State.harts_resetInput, List.getElem?_mapIdx] at hk'
    obtain ⟨x, -, rfl⟩ := Option.map_eq_some_iff.mp hk'
    rfl
  · exact sound_of_forall₂ (List.forall₂_same.mpr fun _ _ => id)
  · exact sound_of_forall₂ ((othersLoseSlots_storeBytes s.begin addr w v).forall₂_harts
      (fun _ _ => Hart.LosesSlot.soundKept) (Hart.losesSlot_dropOverlap _ _ _).soundKept)

/-- In a step that a driver's input or a free choice asks for, a halted hart loses its reservation at most (R112). -/
theorem haltedStays_step {s t : State} (hinput : ∀ i, s.inputs.head? = some i → ∃ j, i = .run j ∨ i = .event j)
    (hstep : step s = .next t) : List.Forall₂ Hart.HaltedStays s.harts t.harts := by
  obtain ⟨k, u, hu, hm⟩ | ⟨hi, -, -⟩ | ⟨addr, w, v, hi, -⟩ := step_next hstep
  · have hhart : u.hart.HaltedStays t.hart := by
      intro hhalted
      have hstuck := Hart.canMove_of_halted hhalted
      generalize s.inputs.head? = i at hinput hm
      cases hm with
      | run _ hmove | event _ hmove => rw [hstuck] at hmove; cases hmove
      | idle => exact Hart.losesSlot_refl _
      | call | contextSwitch | resume | csrUnit => obtain ⟨j, hi | hi⟩ := hinput _ rfl <;> cases hi
    obtain ⟨hharts, -⟩ := State.focus_harts hu
    have hall := (othersLoseSlots_focusMove hm).forall₂_harts (R := Hart.HaltedStays) (fun _ _ hl _ => hl) hhart
    rwa [hharts] at hall
  · obtain ⟨j, e | e⟩ := hinput _ hi <;> cases e
  · obtain ⟨j, e | e⟩ := hinput _ hi <;> cases e

/-- Settles O51: a driver's input that ends a call is `runHart`, which halts on a trap, and no move starts on a halted
hart. -/
theorem driverHaltsOnTrap : Obligations.DriverHaltsOnTrap := by
  refine ⟨fun s u k hfocus => ⟨fun hinput hmove t c v hexec htrap => ?_, fun hinput hhalted => ?_⟩, ?_⟩
  · have hstep : step s = runHart u := by
      obtain hrun | ⟨hevent, hends⟩ := hinput
      · exact step_run hfocus hrun hmove
      · rw [step_event hfocus hevent hmove]
        cases hf : u.hart.fetched with
        | some op => exact eventHart_of_fetched hf
        | none =>
          obtain hsome | ⟨f, hl⟩ := hends
          · rw [hf] at hsome; cases hsome
          · exact eventHart_of_fetch_error hf hl
    exact ⟨_, hstep.trans (runHart_of_execute hexec), State.haltOnTrap_hart_halted_of_trapped htrap,
      t.haltOnTrap_hart_pc, t.haltOnTrap_hart_regs, t.haltOnTrap_mem⟩
  · obtain ⟨hharts, -, hmem, -⟩ := State.focus_harts hfocus
    exact ⟨step_idle hfocus hinput (Hart.canMove_of_halted hhalted), hharts, hmem⟩
  · intro s t k h hinput hstep hk hhalted
    obtain ⟨h', hk', hstays⟩ := exists_getElem?_of_forall₂ (haltedStays_step hinput hstep) hk
    exact ⟨h', hk', hstays hhalted⟩

/-- Settles O52: with nothing queued the step is the free move, which depends on the harts that can move. -/
theorem runEndsWhenNoHartMoves : Obligations.RunEndsWhenNoHartMoves := by
  intro s hinputs
  rw [step_of_inputs_nil hinputs]
  refine ⟨?_, fun hstuck => ?_⟩
  · rintro ⟨h, hh, hmove⟩
    refine exists_next_freeMove fun hnil => ?_
    have hstuck := movableFrom_eq_nil_iff.mp hnil h hh
    rw [hmove] at hstuck
    cases hstuck
  · rw [freeMove_of_none_movable (s := s.begin) (movableFrom_eq_nil_iff.mpr hstuck)]
    refine ⟨fun hsound => if_neg ?_, fun hdefect => if_pos ?_⟩
    · rw [List.any_eq_true]
      rintro ⟨h, hh, hd⟩
      rw [hsound h hh] at hd
      cases hd
    · exact List.any_eq_true.mpr hdefect

/-- Settles O47: either way the step is the driver's call of `execute` on hart k, which runs what the bytes at pc decode
to. -/
theorem stepRunsTheDecodedInstruction : Obligations.StepRunsTheDecodedInstruction := by
  intro s u k i hfocus hmove hf hok hbytes hmoves
  have hstep : step s = runHart u := by
    obtain hrun | ⟨hnil, hone⟩ := hmoves
    · exact step_run hfocus hrun hmove
    · rw [step_of_inputs_nil hnil, freeMove_of_one_movable (s := s.begin) hone, onHart_of_focus hfocus]
  rw [hstep, runHart, execute_of_decoded (Hart.defect_of_canMove hmove) hf hok hbytes]

end Sys2Proof.Machine
end

section
/-! SUPPORT. What an instruction that computes on registers writes, and the operand functions it computes with as
arithmetic: comparisons by their readings, shifts by powers of two. -/

namespace Sys2Proof.Machine

/-! ### Instructions that compute a register -/

section
variable {i : Instr} {s : State} {cap : Capability} {f : Word → Word → Word} {rd rs1 rs2 : Reg} {imm v : Word}

/-- An instruction of a source register and the immediate writes what its function makes of them. -/
theorem writesRegister_of_regImm (hexec : exec i s = runOp cap s (regImm f rd rs1 imm)) (hready : s.Ready cap)
    (hv : f (s.reg rs1) imm = v) : WritesRegister i s rd v :=
  writesRegister_of_cont_setReg hexec hready (by rw [regImm, hv])

/-- An instruction of two source registers writes what its function makes of them. -/
theorem writesRegister_of_regReg (hexec : exec i s = runOp cap s (regReg f rd rs1 rs2)) (hready : s.Ready cap)
    (hv : f (s.reg rs1) (s.reg rs2) = v) : WritesRegister i s rd v :=
  writesRegister_of_cont_setReg hexec hready (by rw [regReg, hv])

end

/-! ### Comparisons (R124, R125) -/

theorem flagWord_decide (p : Prop) [Decidable p] : flagWord (decide p) = if p then 1 else 0 := by
  simp only [flagWord, decide_eq_true_eq]

theorem flagWord_lessSigned (a b : Word) : flagWord (lessSigned a b) = if a.toInt < b.toInt then 1 else 0 :=
  flagWord_decide _

theorem flagWord_lessUnsigned (a b : Word) : flagWord (lessUnsigned a b) = if a.toNat < b.toNat then 1 else 0 :=
  flagWord_decide _

/-! ### Shifts (R129 to R131) -/

/-- The low five bits are the remainder by 32. -/
theorem shiftAmount_eq_mod (v : Word) : shiftAmount v = v.toNat % 32 := BitVec.extractLsb'_toNat 0 5 v

theorem shiftLeft_shiftAmount (a b : Word) :
    a <<< shiftAmount b = BitVec.ofNat 32 (a.toNat * 2 ^ (b.toNat % 32)) := by
  rw [← shiftAmount_eq_mod, ← Nat.shiftLeft_eq]
  rfl

theorem shiftRight_shiftAmount (a b : Word) :
    a >>> shiftAmount b = BitVec.ofNat 32 (a.toNat / 2 ^ (b.toNat % 32)) := by
  apply BitVec.eq_of_toNat_eq
  have hlt : a.toNat / 2 ^ (b.toNat % 32) < 2 ^ 32 := (Nat.div_le_self ..).trans_lt a.isLt
  rw [BitVec.toNat_ushiftRight, shiftAmount_eq_mod, Nat.shiftRight_eq_div_pow, BitVec.toNat_ofNat, Nat.mod_eq_of_lt hlt]

/-- The arithmetic shift rounds down, whatever the sign. -/
theorem sshiftRight_shiftAmount (a b : Word) :
    a.sshiftRight (shiftAmount b) = BitVec.ofInt 32 (a.toInt / 2 ^ (b.toNat % 32)) := by
  rw [BitVec.sshiftRight, shiftAmount_eq_mod, Int.shiftRight_eq_div_pow]
  norm_cast

end Sys2Proof.Machine
end

section
/-! CERTIFICATE. Integer computation (R121 to R141), and the words of the spec's examples. -/

namespace Sys2Proof.Machine

/-- Settles O11: the flag of each comparison as the word it is. -/
theorem setLessThanResults : Obligations.SetLessThanResults := fun _ _ _ _ _ hready =>
  ⟨writesRegister_of_regImm rfl hready (flagWord_lessSigned _ _),
    writesRegister_of_regImm rfl hready (flagWord_lessUnsigned _ _),
    writesRegister_of_regReg rfl hready (flagWord_lessSigned _ _),
    writesRegister_of_regReg rfl hready (flagWord_lessUnsigned _ _)⟩

/-- Settles O12: a shift by the low five bits of the amount is arithmetic with a power of two. -/
theorem shiftResults : Obligations.ShiftResults := fun _ _ _ _ _ hready =>
  ⟨writesRegister_of_regImm rfl hready (shiftLeft_shiftAmount _ _),
    writesRegister_of_regImm rfl hready (shiftRight_shiftAmount _ _),
    writesRegister_of_regImm rfl hready (sshiftRight_shiftAmount _ _),
    writesRegister_of_regReg rfl hready (shiftLeft_shiftAmount _ _),
    writesRegister_of_regReg rfl hready (shiftRight_shiftAmount _ _),
    writesRegister_of_regReg rfl hready (sshiftRight_shiftAmount _ _)⟩

/-- Settles O7: the decoder evaluated on each word, a small closed computation. -/
theorem sampleWordsDecode : Obligations.SampleWordsDecode := by
  refine ⟨?_, ?_, ?_, ?_, ?_, ?_, ?_, ?_, ?_, ?_⟩ <;> decide

/-- Settles O8: the handlers write the immediate, and pc plus the immediate. -/
theorem upperImmediateResults : Obligations.UpperImmediateResults := fun _ rd imm hready =>
  ⟨writesRegister_of_cont_setReg (handler := fun s => .cont (s.setReg rd imm)) rfl hready rfl,
    writesRegister_of_cont_setReg (handler := fun s => .cont (s.setReg rd (s.hart.pc + imm))) rfl hready rfl⟩

/-- Settles O9: the results are the handlers' own operations. -/
theorem immediateArithmeticResults : Obligations.ImmediateArithmeticResults := fun _ _ _ _ hready =>
  ⟨writesRegister_of_regImm rfl hready rfl, writesRegister_of_regImm rfl hready rfl,
    writesRegister_of_regImm rfl hready rfl, writesRegister_of_regImm rfl hready rfl⟩

/-- Settles O10: the results are the handlers' own operations. -/
theorem registerArithmeticResults : Obligations.RegisterArithmeticResults := fun _ _ _ _ hready =>
  ⟨writesRegister_of_regReg rfl hready rfl, writesRegister_of_regReg rfl hready rfl,
    writesRegister_of_regReg rfl hready rfl, writesRegister_of_regReg rfl hready rfl,
    writesRegister_of_regReg rfl hready rfl⟩

end Sys2Proof.Machine
end

section
/-! SUPPORT. What the engine makes of a handler that goes on, jumps or traps, the check of a jump target, and the shared
handlers of the control transfers. Proofs about jumps, branches and traps cite these lemmas. -/

namespace Sys2Proof.Machine

/-! ### The register frame -/

theorem registerFrame_refl (s : State) (dest : Option Reg) : RegisterFrame s s dest where
  regs := regsKept_refl s dest
  mem := fun _ => rfl
  csrs := rfl
  resv := rfl
  control := ⟨rfl, rfl, rfl, rfl⟩
  below := rfl
  above := rfl
  system := ⟨rfl, rfl, rfl⟩

theorem RegisterFrame.setReg {s u : State} {rd : Reg} (h : RegisterFrame s u (some rd)) (v : Word) :
    RegisterFrame s (u.setReg rd v) (some rd) where
  regs := h.regs.setReg v
  mem := h.mem
  csrs := h.csrs
  resv := h.resv
  control := ⟨h.control.defect, h.control.halted, h.control.resetPc, h.control.fetched⟩
  below := h.below
  above := h.above
  system := ⟨h.system.cfg, h.system.inputs, h.system.tick⟩

/-- The engine's pc policy and the Outcome are outside the frame (R105, R106). -/
theorem RegisterFrame.setPc_setOutcome {s u : State} {dest : Option Reg} (h : RegisterFrame s u dest) (pc : Word)
    (o : Option Conclusion) : RegisterFrame s ((u.setPc pc).setOutcome o) dest where
  regs := h.regs
  mem := h.mem
  csrs := h.csrs
  resv := h.resv
  control := ⟨h.control.defect, h.control.halted, h.control.resetPc, h.control.fetched⟩
  below := h.below
  above := h.above
  system := ⟨h.system.cfg, h.system.inputs, h.system.tick⟩

/-! ### What the engine makes of a handler (R104 to R107) -/

section
variable {i : Instr} {s : State} {cap : Capability} {handler : State → Result}

/-- The engine around a handler that goes on with the state as it was: only pc and the Outcome change. -/
theorem continues_of_cont (hexec : exec i s = runOp cap s handler) (hready : s.Ready cap)
    (hcont : handler s = .cont s) : ∃ t, exec i s = .next t ∧ Continues s t ∧ RegisterFrame s t none :=
  ⟨retire s (.cont s), by rw [hexec, runOp_ready handler hready, hcont], ⟨rfl, rfl⟩,
    (registerFrame_refl s none).setPc_setOutcome _ _⟩

/-- The engine around a handler that traps: whatever the cause, the trap is precise. -/
theorem takesTrap_of_trap {c : Cause} {v : Word} (hexec : exec i s = runOp cap s handler) (hready : s.Ready cap)
    (htrap : handler s = .trap c v) : TakesTrap i s c v :=
  ⟨s.takeTrap c v, by rw [hexec, runOp_ready handler hready, htrap, retire], traps_takeTrap s c v⟩

end

/-! ### Jump targets (R151, R153) -/

/-- The check of a jump target is that the target is a multiple of 4. -/
theorem lowBits_eq_zero_iff {t : Word} : t.extractLsb' 0 2 = 0#2 ↔ t.toNat % 4 = 0 :=
  ⟨aligned_of_lowBits, fun h => BitVec.eq_of_toNat_eq (by rw [BitVec.extractLsb'_toNat]; exact h)⟩

/-- Clearing bit 0 rounds down to an even number. -/
theorem and_clear_bit_zero (a : Word) : a &&& 0xFFFFFFFE#32 = BitVec.ofNat 32 (a.toNat / 2 * 2) := by
  have hshift : a &&& 0xFFFFFFFE#32 = a >>> 1 <<< 1 := by
    rw [BitVec.shiftLeft_ushiftRight]
    rfl
  rw [hshift, ← Nat.pow_one 2, ← Nat.shiftRight_eq_div_pow, ← Nat.shiftLeft_eq]
  rfl

/-! ### The shared handlers (R151, R154) -/

section
variable {s : State}

theorem jumpAndLink_of_aligned {t : Word} (rd : Reg) (h : t.toNat % 4 = 0) :
    jumpAndLink rd t s = .jump t ((s.setReg rd (s.hart.pc + 4)).setPc t) :=
  if_neg (not_not.mpr (lowBits_eq_zero_iff.mpr h))

theorem jumpAndLink_of_misaligned {t : Word} (rd : Reg) (h : t.toNat % 4 ≠ 0) :
    jumpAndLink rd t s = .trap .instrAddrMisaligned t :=
  if_pos (mt lowBits_eq_zero_iff.mp h)

variable {cond : Word → Word → Bool} {rs1 rs2 : Reg} {imm : Word}

theorem branch_of_not_taken (h : ¬ cond (s.reg rs1) (s.reg rs2) = true) : branch cond rs1 rs2 imm s = .cont s :=
  if_neg h

theorem branch_of_aligned (h : cond (s.reg rs1) (s.reg rs2) = true) (ha : (s.hart.pc + imm).toNat % 4 = 0) :
    branch cond rs1 rs2 imm s = .jump (s.hart.pc + imm) (s.setPc (s.hart.pc + imm)) :=
  (if_pos h).trans (if_neg (not_not.mpr (lowBits_eq_zero_iff.mpr ha)))

theorem branch_of_misaligned (h : cond (s.reg rs1) (s.reg rs2) = true) (ha : (s.hart.pc + imm).toNat % 4 ≠ 0) :
    branch cond rs1 rs2 imm s = .trap .instrAddrMisaligned (s.hart.pc + imm) :=
  (if_pos h).trans (if_pos (mt lowBits_eq_zero_iff.mp ha))

end

end Sys2Proof.Machine
end

section
/-! CERTIFICATE. Control transfer (R150 to R160). -/

namespace Sys2Proof.Machine

section
variable {i : Instr} {s : State}

/-- An instruction whose handler is the common part of JAL and JALR follows the jump rule. -/
theorem jumpRule_of_jumpAndLink {handler : State → Result} {rd : Reg} {target : Word}
    (hexec : exec i s = runOp .base s handler) (hready : s.Ready .base)
    (hhandler : handler s = jumpAndLink rd target s) : JumpRule i s rd target := by
  refine ⟨fun ha => ?_, fun ha => ?_⟩
  · refine ⟨retire s (.jump target ((s.setReg rd (s.hart.pc + 4)).setPc target)), ?_, ⟨rfl, rfl⟩,
      s.reg_setReg_same rd _, ((registerFrame_refl s _).setReg _).setPc_setOutcome _ _⟩
    rw [hexec, runOp_ready handler hready, hhandler, jumpAndLink_of_aligned rd ha]
  · exact takesTrap_of_trap hexec hready (hhandler.trans (jumpAndLink_of_misaligned rd ha))

/-- An instruction whose handler is the common branch follows the branch rule with the condition its test decides. -/
theorem branchRule_of_branch {cond : Word → Word → Bool} {rs1 rs2 : Reg} {imm : Word} {taken : Prop}
    (hexec : exec i s = runOp .base s (branch cond rs1 rs2 imm)) (hready : s.Ready .base)
    (hcond : cond (s.reg rs1) (s.reg rs2) = true ↔ taken) : BranchRule i s imm taken := by
  refine ⟨fun hn => ?_, fun ht ha => ?_, fun ht ha => ?_⟩
  · exact continues_of_cont hexec hready (branch_of_not_taken (mt hcond.mp hn))
  · refine ⟨retire s (.jump _ (s.setPc _)), ?_, ⟨rfl, rfl⟩, (registerFrame_refl s none).setPc_setOutcome _ _⟩
    rw [hexec, runOp_ready _ hready, branch_of_aligned (hcond.mpr ht) ha]
  · exact takesTrap_of_trap hexec hready (branch_of_misaligned (hcond.mpr ht) ha)

end

/-- Settles O14: JAL is the common jump to pc plus the immediate. -/
theorem jalLinksAndJumps : Obligations.JalLinksAndJumps := fun _ _ _ hready =>
  jumpRule_of_jumpAndLink rfl hready rfl

/-- Settles O15: JALR is the common jump to the sum with bit 0 cleared, that is, rounded down to an even number. -/
theorem jalrLinksAndJumps : Obligations.JalrLinksAndJumps := fun _ rd _ _ hready =>
  jumpRule_of_jumpAndLink rfl hready (congrArg (jumpAndLink rd · _) (and_clear_bit_zero _))

/-- Settles O16: each test decides its condition, and the tests of BGE and BGEU are the negated ones of BLT and BLTU. -/
theorem branchesFollowTheirConditions : Obligations.BranchesFollowTheirConditions := fun _ _ _ _ hready =>
  ⟨branchRule_of_branch rfl hready beq_iff_eq,
    branchRule_of_branch rfl hready bne_iff_ne,
    branchRule_of_branch rfl hready decide_eq_true_iff,
    branchRule_of_branch rfl hready (by simp [lessSigned]),
    branchRule_of_branch rfl hready decide_eq_true_iff,
    branchRule_of_branch rfl hready (by simp [lessUnsigned])⟩

end Sys2Proof.Machine
end

section
/-! SUPPORT. What LB to LHU make of the bytes they read, what the common load and store answer, and the frame of a store
(43_load_store.md rules R171 to R180). Proofs about loads and instructions that store cite these lemmas. -/

namespace Sys2Proof.Machine

/-! ### Bytes of an access, extended (R11, R48) -/

/-- n bytes make a number of 8n bits. -/
theorem bytesAt_lt (s : State) (a n : Nat) : bytesAt s a n < 2 ^ (8 * n) := by
  induction n generalizing a with
  | zero => exact Nat.one_pos
  | succ n ih =>
    have hbyte := (Memory.read s.mem a).isLt
    have hrest := ih (a + 1)
    rw [bytesAt, Nat.mul_succ, Nat.pow_add]
    omega

/-- The sign-extension of an access keeps its low 8n bits only. -/
theorem signExt_ofNat (w : Width) (n : Nat) :
    signExt w (BitVec.ofNat 32 n) = (BitVec.ofNat (8 * w.bytes) n).signExtend 32 := by
  cases w with
  | byte => exact congrArg (BitVec.signExtend 32) (BitVec.setWidth_ofNat_of_le (show 8 ≤ 32 by decide) n)
  | half => exact congrArg (BitVec.signExtend 32) (BitVec.setWidth_ofNat_of_le (show 16 ≤ 32 by decide) n)
  | word => exact (BitVec.signExtend_eq _).symm

/-- The zero-extension of an access changes no number of its width. -/
theorem zeroExt_ofNat {w : Width} {n : Nat} (h : n < 2 ^ (8 * w.bytes)) :
    zeroExt w (BitVec.ofNat 32 n) = BitVec.ofNat 32 n := by
  cases w with
  | byte =>
    rw [zeroExt, BitVec.setWidth_ofNat_of_le (show 8 ≤ 32 by decide)]
    exact BitVec.setWidth_ofNat_of_le_of_lt (by decide) h
  | half =>
    rw [zeroExt, BitVec.setWidth_ofNat_of_le (show 16 ≤ 32 by decide)]
    exact BitVec.setWidth_ofNat_of_le_of_lt (by decide) h
  | word => rfl

/-! ### The common load and store (R171, R180) -/

section
variable {s : State} {w : Width} {rs1 : Reg} {imm : Word}

theorem load_ok (ext : Word → Word) (rd : Reg) (h : AccessOk s (s.reg rs1 + imm) w [.read]) :
    load w ext rd rs1 imm s =
      .cont (s.setReg rd (ext (BitVec.ofNat 32 (bytesAt s (s.reg rs1 + imm).toNat w.bytes)))) := by
  rw [load, effAddr, memRead_ok h, readLE_eq_ofNat_bytesAt]

theorem load_error {e : MemFault} (ext : Word → Word) (rd : Reg)
    (h : accessCheck s.cfg (s.reg rs1 + imm) w [.read] = some e) :
    load w ext rd rs1 imm s = .trap (loadCause e.kind) e.addr := by
  rw [load, effAddr, memRead_error h]

theorem store_error {e : MemFault} (rs2 : Reg) (h : accessCheck s.cfg (s.reg rs1 + imm) w [.write] = some e) :
    store w rs1 rs2 imm s = .trap (storeCause e.kind) e.addr := by
  rw [store, effAddr, memWrite_error _ h]

end

/-! ### The frame of a store (R44, R45) -/

theorem storeFrame_storeBytes (s : State) (dest : Option Reg) (addr : Word) (w : Width) (v : Word) :
    StoreFrame s (storeBytes s addr w v) dest addr.toNat w.bytes where
  regs := (regsKept_refl s dest).storeBytes addr w v
  mem := memKeptOutside_storeBytes s addr w v
  csrs := s.hart.dropOverlap_csrs _ _
  control := ⟨s.hart.dropOverlap_defect _ _, s.hart.dropOverlap_halted _ _, s.hart.dropOverlap_resetPc _ _,
    s.hart.dropOverlap_fetched _ _⟩
  below := forall₂_seesStore _ _ _
  above := forall₂_seesStore _ _ _
  system := ⟨rfl, rfl, rfl⟩

/-- The engine's pc policy and the Outcome are outside the frame (R105). -/
theorem StoreFrame.setPc_setOutcome {s u : State} {dest : Option Reg} {addr n : Nat} (h : StoreFrame s u dest addr n)
    (pc : Word) (o : Option Conclusion) : StoreFrame s ((u.setPc pc).setOutcome o) dest addr n where
  regs := h.regs
  mem := h.mem
  csrs := h.csrs
  control := ⟨h.control.defect, h.control.halted, h.control.resetPc, h.control.fetched⟩
  below := h.below
  above := h.above
  system := ⟨h.system.cfg, h.system.inputs, h.system.tick⟩

end Sys2Proof.Machine
end

section
/-! CERTIFICATE. Loads and stores (R171 to R180). -/

namespace Sys2Proof.Machine

section
variable {i : Instr} {s : State} {w : Width} {ext : Word → Word} {rd rs1 rs2 : Reg} {imm : Word}

/-! ### Loads -/

/-- An instruction whose handler is the common load follows the load rule with what its extension makes of the bytes. -/
theorem loadRule_of_load {value : Nat → Word} (hexec : exec i s = runOp .base s (load w ext rd rs1 imm))
    (hready : s.Ready .base) (hvalue : ∀ n < 2 ^ (8 * w.bytes), ext (BitVec.ofNat 32 n) = value n) :
    LoadRule i s rd (s.reg rs1 + imm) w value := by
  refine ⟨fun hok => ?_, fun ha hacc => ?_⟩
  · rw [← hvalue _ (bytesAt_lt ..)]
    exact writesRegister_of_cont_setReg hexec hready (load_ok ext rd hok)
  · exact takesTrap_of_trap hexec hready (load_error ext rd (accessCheck_fault _ ha (List.mem_singleton.mpr rfl) hacc))

theorem takesTrap_of_load_misaligned (hexec : exec i s = runOp .base s (load w ext rd rs1 imm)) (hready : s.Ready .base)
    (h : (s.reg rs1 + imm).toNat % w.bytes ≠ 0) : TakesTrap i s .loadAddrMisaligned (s.reg rs1 + imm) :=
  takesTrap_of_trap hexec hready (load_error ext rd (accessCheck_misaligned _ _ h))

/-! ### Stores -/

/-- An instruction whose handler is the common store follows the store rule with its second source register. -/
theorem storeRule_of_store (hexec : exec i s = runOp .base s (store w rs1 rs2 imm)) (hready : s.Ready .base) :
    StoreRule i s (s.reg rs1 + imm) w (s.reg rs2) := by
  refine ⟨fun hok => ?_, fun ha hacc => ?_⟩
  · have hpc : (storeBytes s (s.reg rs1 + imm) w (s.reg rs2)).hart.pc = s.hart.pc := s.hart.dropOverlap_pc _ _
    exact ⟨_, hexec.trans (runOp_store rs2 hready hok), ⟨congrArg (· + 4) hpc, rfl⟩,
      (storeFrame_storeBytes s none _ w _).setPc_setOutcome _ _, fun _ => read_storeBytes_inside s _ w _,
      slotAfterStore_dropOverlap _ _ s.hart⟩
  · exact takesTrap_of_trap hexec hready (store_error rs2 (accessCheck_fault _ ha (List.mem_singleton.mpr rfl) hacc))

theorem takesTrap_of_store_misaligned (hexec : exec i s = runOp .base s (store w rs1 rs2 imm)) (hready : s.Ready .base)
    (h : (s.reg rs1 + imm).toNat % w.bytes ≠ 0) : TakesTrap i s .storeAddrMisaligned (s.reg rs1 + imm) :=
  takesTrap_of_trap hexec hready (store_error rs2 (accessCheck_misaligned _ _ h))

end

/-- Settles O17: each kind is the common load at its width, and its extension keeps the bytes of the access. -/
theorem loadsReadTheirBytes : Obligations.LoadsReadTheirBytes := fun _ _ _ _ hready =>
  ⟨loadRule_of_load rfl hready fun n _ => signExt_ofNat .byte n,
    loadRule_of_load rfl hready fun n _ => signExt_ofNat .half n,
    loadRule_of_load rfl hready fun _ _ => rfl,
    loadRule_of_load rfl hready fun _ => zeroExt_ofNat,
    loadRule_of_load rfl hready fun _ => zeroExt_ofNat,
    fun h => ⟨takesTrap_of_load_misaligned (w := .half) rfl hready h,
      takesTrap_of_load_misaligned (w := .half) rfl hready h⟩,
    takesTrap_of_load_misaligned (w := .word) rfl hready⟩

/-- Settles O18: each kind is the common store at its width. -/
theorem storesWriteTheirBytes : Obligations.StoresWriteTheirBytes := fun _ _ _ _ hready =>
  ⟨storeRule_of_store rfl hready, storeRule_of_store rfl hready, storeRule_of_store rfl hready,
    takesTrap_of_store_misaligned (w := .half) rfl hready, takesTrap_of_store_misaligned (w := .word) rfl hready⟩

end Sys2Proof.Machine
end

section
/-! CERTIFICATE. Fences, ECALL and EBREAK (R190 to R193). -/

namespace Sys2Proof.Machine

/-- A word of an instruction whose capability is not built in decodes to no instruction (R74). -/
theorem instr_decodeOperation_of_capability_off {cfg : Config} {w : Word} {i : Instr} (hword : IsWordOf w i)
    (hoff : cfg.has i.capability = false) : (decodeOperation cfg w).instr = none := by
  have hreject : decodeWord cfg w = .error (.capabilityOff i.capability) := by
    rw [decodeWord, decodeFull_ok_iff.mpr hword]
    exact if_neg (Bool.eq_false_iff.mp hoff)
  rw [instr_decodeOperation, hreject]
  rfl

/-- An instruction that traps halts its hart under the reference driver, in the trap it took (R112). -/
theorem TakesTrap.driver_halts {i : Instr} {s : State} {c : Cause} {v : Word} (h : TakesTrap i s c v) :
    ∃ t, driver (exec i s) = .next t ∧ t.hart.halted = some (c, v) := by
  obtain ⟨t, hexec, htraps⟩ := h
  exact ⟨t.haltOnTrap, congrArg driver hexec, State.haltOnTrap_hart_halted_of_trapped htraps.outcome⟩

/-- Settles O20: both handlers go on with the state as it is, and the word of FENCE.I is rejected where its capability is
not built in. -/
theorem fencesOnlyAdvancePc : Obligations.FencesOnlyAdvancePc := by
  refine fun s => ⟨fun hready => continues_of_cont rfl hready rfl, fun hready => continues_of_cont rfl hready rfl,
    fun hd hoff => ?_⟩
  have hnone : (decodeOperation s.cfg 0x0000100F).instr = none :=
    instr_decodeOperation_of_capability_off (isWordOf_fenceI_iff.mpr (by decide)) hoff
  have hexec := executeOp_of_instr_none hd hnone
  rw [raw_decodeOperation] at hexec
  exact ⟨_, hexec, traps_takeTrap _ _ _⟩

/-- Settles O21: both handlers only trap, and the driver halts the hart on the trap of ECALL. -/
theorem ecallAndEbreakTrap : Obligations.EcallAndEbreakTrap := by
  intro s hready
  have hecall : TakesTrap .ecall s .environmentCall 0 :=
    takesTrap_of_trap (handler := fun _ => .trap .environmentCall 0) rfl hready rfl
  have hebreak : TakesTrap .ebreak s .breakpoint s.hart.pc :=
    takesTrap_of_trap (handler := fun s => .trap .breakpoint s.hart.pc) rfl hready rfl
  exact ⟨hecall, hecall.driver_halts, hebreak⟩

end Sys2Proof.Machine
end

section
/-! SUPPORT. What a table of CSRs finds, reads and stores, what the common CSR access answers, and the frame of a CSR
instruction (45_csr.md rules R201 to R211). Proofs about CSR units and CSR instructions cite these lemmas. -/

namespace Sys2Proof.Machine

/-! ### A table of CSRs (R201) -/

section
variable (cs : List Csr) {a b : CsrAddr} (v : Word)

@[simp] theorem csrFind_nil (a : CsrAddr) : csrFind [] a = none := rfl

theorem csrFind_cons (c : Csr) (a : CsrAddr) : csrFind (c :: cs) a = if c.addr = a then some c else csrFind cs a := by
  by_cases h : c.addr = a <;> simp [csrFind, h]

/-- What a table of CSRs holds of one CSR after a write to it: where the CSR is not writable the write is `Fault`. -/
def Csr.written (c : Csr) (v : Word) : Csr := if c.writable then { c with value := c.stored v } else c

theorem Csr.written_of_writable {c : Csr} (h : c.writable = true) : c.written v = { c with value := c.stored v } :=
  if_pos h

theorem Csr.written_of_not_writable {c : Csr} (h : c.writable = false) : c.written v = c :=
  if_neg (Bool.eq_false_iff.mp h)

@[simp] theorem Csr.addr_written (c : Csr) : (c.written v).addr = c.addr := by
  unfold Csr.written
  split <;> rfl

theorem csrPut_cons (c : Csr) (a : CsrAddr) :
    csrPut (c :: cs) a v = if c.addr = a then c.written v :: cs else c :: csrPut cs a v := rfl

/-- The CSR written to is found as written. -/
theorem csrFind_csrPut_same (a : CsrAddr) : csrFind (csrPut cs a v) a = (csrFind cs a).map (·.written v) := by
  induction cs with
  | nil => rfl
  | cons c cs ih => by_cases h : c.addr = a <;> simp [csrPut_cons, csrFind_cons, h, ih]

/-- Every other address finds the CSR it found before. -/
theorem csrFind_csrPut_ne (h : b ≠ a) : csrFind (csrPut cs a v) b = csrFind cs b := by
  induction cs with
  | nil => rfl
  | cons c cs ih =>
    by_cases hc : c.addr = a
    · simp [csrPut_cons, csrFind_cons, hc, h.symm]
    · simp [csrPut_cons, csrFind_cons, hc, ih]

/-- A write to no CSR or to one that is not writable leaves the table as it is. -/
theorem csrPut_of_not_writable (h : ∀ c, csrFind cs a = some c → c.writable = false) : csrPut cs a v = cs := by
  induction cs with
  | nil => rfl
  | cons c cs ih =>
    rw [csrPut_cons]
    by_cases hc : c.addr = a
    · rw [if_pos hc, Csr.written_of_not_writable v (h c (by rw [csrFind_cons, if_pos hc]))]
    · rw [if_neg hc, ih fun d hd => h d (by rw [csrFind_cons, if_neg hc, hd])]

end

section
variable {s : State} {cs : List Csr} (h : s.hart.csrs = .table cs)
include h

theorem csrRead_table (a : CsrAddr) : csrRead s a = csrTableRead cs s.below.length s.tick a := by
  simp only [csrRead, h]

theorem csrWritable_table (a : CsrAddr) : csrWritable s a = (csrFind cs a).any Csr.writable := by
  simp only [csrWritable, h]
  cases csrFind cs a <;> rfl

end

/-! ### The reference unit (R211) -/

theorem csrFind_referenceCsrs_of_ne {a : CsrAddr} (h : Nat) (hscratch : a ≠ 0x340) (hhartid : a ≠ 0xF14) :
    csrFind (referenceCsrs h) a = none := by
  rw [referenceCsrs, csrFind_cons, if_neg hscratch.symm, csrFind_cons, if_neg hhartid.symm, csrFind_nil]

/-! ### The common CSR access (R209) -/

section
variable {s : State} {doRead doWrite : Bool} {new : Word → Word → Word} {src : Word} {rd : Reg} {csr : CsrAddr} {raw : Word}

theorem csrAccess_of_not_writable (hdo : doWrite = true) (hw : csrWritable s csr = false) :
    csrAccess doRead doWrite new src rd csr raw s = .trap .illegalInstruction raw := by
  simp [csrAccess, hdo, hw]

theorem csrAccess_of_read_none (hw : doWrite = true → csrWritable s csr = true) (hr : csrRead s csr = none) :
    csrAccess true doWrite new src rd csr raw s = .trap .illegalInstruction raw := by
  cases doWrite with
  | false => simp [csrAccess, hr]
  | true => simp [csrAccess, hr, hw rfl]

theorem csrAccess_of_read_some {old : Word} (hw : doWrite = true → csrWritable s csr = true)
    (hr : csrRead s csr = some old) : csrAccess true doWrite new src rd csr raw s =
      .cont ((if doWrite then csrWrite (csrAfterRead s csr) csr (new old src) else csrAfterRead s csr).setReg rd old) := by
  cases doWrite with
  | false => simp [csrAccess, hr]
  | true => simp [csrAccess, hr, hw rfl]

theorem csrAccess_of_no_read (hw : csrWritable s csr = true) :
    csrAccess false true new src rd csr raw s = .cont (csrWrite s csr (new 0 src)) := by
  simp [csrAccess, hw]

end

/-! ### The frame of a CSR instruction (R209) -/

/-- A read and the write after it, where there is one, change nothing but the unit (R201, R202). -/
theorem csrReadWrite_eq_setCsrs (s : State) (csr : CsrAddr) (doWrite : Bool) (v : Word) :
    ∃ cs, (if doWrite then csrWrite (csrAfterRead s csr) csr v else csrAfterRead s csr) = s.setCsrs cs := by
  obtain ⟨read, hread⟩ := csrAfterRead_eq_setCsrs s csr
  rw [hread]
  cases doWrite with
  | false => exact ⟨read, rfl⟩
  | true => exact csrWrite_eq_setCsrs (s.setCsrs read) csr v

/-- The hart's CSR unit is outside the frame. -/
theorem csrFrame_of_registerFrame_setCsrs {s t : State} {cs : CsrUnit} {dest : Option Reg}
    (h : RegisterFrame (s.setCsrs cs) t dest) : CsrFrame s t dest where
  regs := h.regs
  mem := h.mem
  resv := h.resv
  control := ⟨h.control.defect, h.control.halted, h.control.resetPc, h.control.fetched⟩
  below := h.below
  above := h.above
  system := ⟨h.system.cfg, h.system.inputs, h.system.tick⟩

end Sys2Proof.Machine
end

section
/-! CERTIFICATE. CSR instructions and CSR units (R201 to R211). -/

namespace Sys2Proof.Machine

section
variable {i : Instr} {s : State} {handler : State → Result} {new : Word → Word → Word} {src : Word} {rd : Reg}
  {csr : CsrAddr} {raw : Word}

/-- An instruction whose handler is the common CSR access with a read follows the reading rule, with what its function
makes of the old value and the source. -/
theorem csrReadRule_of_csrAccess {doWrite : Bool} (hexec : exec i s = runOp .zicsr s handler) (hready : s.Ready .zicsr)
    (hhandler : handler s = csrAccess true doWrite new src rd csr raw s) :
    CsrReadRule i s rd csr raw doWrite (new · src) := by
  refine ⟨fun hdo hw => ?_, fun hw hr => ?_, fun old hw hr => ?_⟩
  · exact takesTrap_of_trap hexec hready (hhandler.trans (csrAccess_of_not_writable hdo hw))
  · exact takesTrap_of_trap hexec hready (hhandler.trans (csrAccess_of_read_none hw hr))
  · have hstep := hexec.trans (runOp_ready handler hready)
    rw [hhandler, csrAccess_of_read_some hw hr] at hstep
    obtain ⟨cs, hcs⟩ := csrReadWrite_eq_setCsrs s csr doWrite (new old src)
    rw [hcs] at hstep ⊢
    exact ⟨_, hstep, ⟨rfl, rfl⟩,
      csrFrame_of_registerFrame_setCsrs (((registerFrame_refl _ _).setReg _).setPc_setOutcome _ _),
      State.reg_setReg_same _ rd old, rfl⟩

/-- An instruction whose handler is the common CSR access without a read follows the writing rule. -/
theorem csrWriteRule_of_csrAccess (hexec : exec i s = runOp .zicsr s handler) (hready : s.Ready .zicsr)
    (hhandler : handler s = csrAccess false true new src rd csr raw s) :
    CsrWriteRule i s csr raw (new 0 src) := by
  refine ⟨fun hw => ?_, fun hw => ?_⟩
  · exact takesTrap_of_trap hexec hready (hhandler.trans (csrAccess_of_not_writable rfl hw))
  · have hstep := hexec.trans (runOp_ready handler hready)
    rw [hhandler, csrAccess_of_no_read hw] at hstep
    obtain ⟨cs, hcs⟩ := csrWrite_eq_setCsrs s csr (new 0 src)
    rw [hcs] at hstep ⊢
    exact ⟨_, hstep, ⟨rfl, rfl⟩,
      csrFrame_of_registerFrame_setCsrs ((registerFrame_refl _ none).setPc_setOutcome _ _), rfl⟩

end

/-- Settles O23: each kind is the common CSR access, and CSRRW and CSRRWI read exactly where rd is not x0 (R203, R206). -/
theorem csrInstructionsFollowTheCommonRule : Obligations.CsrInstructionsFollowTheCommonRule := by
  intro s rd rs1 imm csr raw hready
  exact ⟨fun hrd => csrReadRule_of_csrAccess (new := fun _ src => src) rfl hready (by rw [bne_iff_ne.mpr hrd]),
    csrWriteRule_of_csrAccess (new := fun _ src => src) (rd := 0) rfl hready rfl,
    csrReadRule_of_csrAccess (new := fun old src => old ||| src) rfl hready rfl,
    csrReadRule_of_csrAccess (new := fun old src => old &&& ~~~src) rfl hready rfl,
    fun hrd => csrReadRule_of_csrAccess (new := fun _ src => src) rfl hready (by rw [bne_iff_ne.mpr hrd]),
    csrWriteRule_of_csrAccess (new := fun _ src => src) (rd := 0) rfl hready rfl,
    csrReadRule_of_csrAccess (new := fun old src => old ||| src) rfl hready rfl,
    csrReadRule_of_csrAccess (new := fun old src => old &&& ~~~src) rfl hready rfl⟩

/-- Settles O24: what a table finds after `csrPut`, at the address written to and at any other. -/
theorem csrWriteChangesOneCsr : Obligations.CsrWriteChangesOneCsr := by
  intro s cs a b v htable
  rw [csrWritable_table htable, csrWrite_table htable]
  refine ⟨csrAfterRead_table htable a, fun hw => ⟨rfl, ?_, csrFind_csrPut_ne cs v⟩, fun hw => ?_⟩
  · obtain ⟨c, hfind, hc⟩ := (Option.any_eq_true ..).mp hw
    rw [csrFind_csrPut_same, hfind, Option.map_some, Option.map_some, Csr.written_of_writable v hc]
  · have hnone : ∀ c, csrFind cs a = some c → c.writable = false := by
      intro c hfind
      rwa [hfind] at hw
    rw [csrPut_of_not_writable cs v hnone, ← htable]
    rfl

/-- Settles O25: at the two addresses the written table is evaluated, and the write makes no CSR found at any other. -/
theorem referenceCsrUnitBehaves : Obligations.ReferenceCsrUnitBehaves := by
  intro s h v a htable
  simp only [csrRead_table htable, csrWritable_table htable]
  refine ⟨rfl, rfl, rfl, rfl, fun hscratch hhartid => ?_⟩
  have hnone : csrFind (csrPut (referenceCsrs h) 0x340 v) a = none :=
    (csrFind_csrPut_ne _ v hscratch).trans (csrFind_referenceCsrs_of_ne h hscratch hhartid)
  simp only [csrTableRead, hnone, Option.any_none, and_self]

end Sys2Proof.Machine
end

section
/-! SUPPORT. The results of multiply and divide as arithmetic: the high half is a floor by 2^32 and stands above the low
word, and the quotients and remainders are those of Int and Nat. -/

namespace Sys2Proof.Machine

/-! ### Products (R221 to R224) -/

/-- Bits 63:32 are the floor of the exact product by 2^32, whatever its sign. -/
theorem highHalf_eq_ofInt (p : Int) : highHalf p = BitVec.ofInt 32 (p / 2 ^ 32) := by
  apply BitVec.eq_of_toNat_eq
  rw [highHalf, BitVec.extractLsb'_toNat, BitVec.toNat_ofInt, BitVec.toNat_ofInt, Nat.shiftRight_eq_div_pow]
  omega

theorem highHalf_natCast (n : Nat) : highHalf (n : Int) = BitVec.ofNat 32 (n / 2 ^ 32) := by
  rw [highHalf_eq_ofInt, ← BitVec.ofInt_natCast]
  norm_cast

/-- The low word of a product does not depend on the reading of its factors. -/
theorem ofInt_toInt_mul_toInt (a b : Word) : BitVec.ofInt 32 (a.toInt * b.toInt) = a * b := by
  rw [BitVec.ofInt_mul, BitVec.ofInt_toInt, BitVec.ofInt_toInt]

theorem ofInt_toInt_mul_toNat (a b : Word) : BitVec.ofInt 32 (a.toInt * (b.toNat : Int)) = a * b := by
  rw [BitVec.ofInt_mul, BitVec.ofInt_toInt, BitVec.ofInt_natCast, BitVec.ofNat_toNat, BitVec.setWidth_eq]

theorem abs_toInt_le (a : Word) : |a.toInt| ≤ 2 ^ 31 := abs_le.mpr ⟨a.le_toInt, a.toInt_lt.le⟩

theorem abs_toNat_lt (a : Word) : |(a.toNat : Int)| < 2 ^ 32 := by
  rw [Nat.abs_cast]
  exact_mod_cast a.isLt

/-- A signed word times a number of at most 32 bits fits in 64 signed bits. -/
theorem abs_toInt_mul_lt (a : Word) {m : Int} (hm : |m| < 2 ^ 32) : |a.toInt * m| < 2 ^ 63 := by
  calc |a.toInt * m| = |a.toInt| * |m| := abs_mul ..
    _ ≤ 2 ^ 31 * |m| := mul_le_mul_of_nonneg_right (abs_toInt_le a) (abs_nonneg m)
    _ < 2 ^ 31 * 2 ^ 32 := by gcongr
    _ = 2 ^ 63 := by norm_num

/-- The high half above the low word is the product again, where the product fits in 64 signed bits. -/
theorem highHalf_toInt_mul_add {p : Int} (hp : |p| < 2 ^ 63) :
    (highHalf p).toInt * 2 ^ 32 + ((BitVec.ofInt 32 p).toNat : Int) = p := by
  obtain ⟨hlow, hhigh⟩ := abs_lt.mp hp
  rw [highHalf_eq_ofInt, BitVec.toInt_ofInt_eq_self (by decide) (by omega) (by omega), BitVec.toNat_ofInt]
  omega

theorem highHalf_toNat_mul_add (a b : Word) :
    (highHalf ((a.toNat : Int) * (b.toNat : Int))).toNat * 2 ^ 32 + (a * b).toNat = a.toNat * b.toNat := by
  have hlt : a.toNat * b.toNat < 2 ^ 32 * 2 ^ 32 := Nat.mul_lt_mul'' a.isLt b.isLt
  rw [← Nat.cast_mul, highHalf_natCast, BitVec.toNat_ofNat, BitVec.toNat_mul]
  omega

/-! ### Quotients and remainders (R225 to R228) -/

/-- The overflow result of DIV is the exact quotient 2^31 narrowed like any other. -/
theorem divSigned_eq_ofInt_tdiv (a : Word) {b : Word} (hb : b ≠ 0) :
    divSigned a b = BitVec.ofInt 32 (a.toInt.tdiv b.toInt) := by
  rw [divSigned, if_neg hb]
  split
  next hoverflow =>
    obtain ⟨rfl, rfl⟩ := hoverflow
    decide
  next => rfl

/-- The fixed results of REM are the remainder of the readings as well. -/
theorem remSigned_toInt (a b : Word) : (remSigned a b).toInt = a.toInt.tmod b.toInt := by
  unfold remSigned
  split
  next hzero =>
    rw [hzero]
    exact (Int.tmod_zero _).symm
  next =>
    split
    next hoverflow =>
      obtain ⟨rfl, rfl⟩ := hoverflow
      decide
    next => rw [← Int.tmod_def, ← BitVec.toInt_srem, BitVec.ofInt_toInt]

theorem divUnsigned_toNat (a : Word) {b : Word} (hb : b ≠ 0) : (divUnsigned a b).toNat = a.toNat / b.toNat := by
  rw [divUnsigned, if_neg hb, ← BitVec.udiv_def, BitVec.toNat_udiv]

/-- The remainder by zero of Nat is the dividend, as R228 fixes it. -/
theorem remUnsigned_toNat (a b : Word) : (remUnsigned a b).toNat = a.toNat % b.toNat := by
  unfold remUnsigned
  split
  next hzero =>
    rw [hzero]
    exact (Nat.mod_zero _).symm
  next => rw [← BitVec.umod_def, BitVec.toNat_umod]

/-! ### The laws of division (R229) -/

/-- The identity of Int, narrowed; the overflow is no exception. -/
theorem divSigned_mul_add_remSigned (a : Word) {b : Word} (hb : b ≠ 0) : divSigned a b * b + remSigned a b = a :=
  calc divSigned a b * b + remSigned a b
    _ = BitVec.ofInt 32 (a.toInt.tdiv b.toInt) * BitVec.ofInt 32 b.toInt + BitVec.ofInt 32 (a.toInt.tmod b.toInt) := by
      rw [divSigned_eq_ofInt_tdiv a hb, ← remSigned_toInt, BitVec.ofInt_toInt, BitVec.ofInt_toInt]
    _ = BitVec.ofInt 32 (a.toInt.tdiv b.toInt * b.toInt + a.toInt.tmod b.toInt) := by
      rw [BitVec.ofInt_add, BitVec.ofInt_mul]
    _ = a := by rw [Int.tdiv_mul_add_tmod, BitVec.ofInt_toInt]

theorem remSigned_natAbs_lt (a : Word) {b : Word} (hb : b ≠ 0) :
    (remSigned a b).toInt.natAbs < b.toInt.natAbs := by
  have hbInt : b.toInt ≠ 0 := fun h => hb (BitVec.eq_of_toInt_eq h)
  rw [remSigned_toInt, Int.natAbs_tmod]
  exact Nat.mod_lt _ (Int.natAbs_pos.mpr hbInt)

/-- The remainder is zero or has the sign of the dividend. -/
theorem remSigned_sign (a b : Word) :
    (remSigned a b).toInt = 0 ∨ ((remSigned a b).toInt < 0 ↔ a.toInt < 0) := by
  have hsign := Int.sign_tmod a.toInt b.toInt
  rw [← remSigned_toInt] at hsign
  split at hsign
  next => exact .inl (Int.sign_eq_zero_iff_zero.mp hsign)
  next => exact .inr (by rw [← Int.sign_eq_neg_one_iff_neg, hsign, Int.sign_eq_neg_one_iff_neg])

theorem divUnsigned_mul_add_remUnsigned (a : Word) {b : Word} (hb : b ≠ 0) :
    (divUnsigned a b).toNat * b.toNat + (remUnsigned a b).toNat = a.toNat := by
  rw [divUnsigned_toNat a hb, remUnsigned_toNat, Nat.div_add_mod']

theorem remUnsigned_toNat_lt (a : Word) {b : Word} (hb : b ≠ 0) : (remUnsigned a b).toNat < b.toNat := by
  rw [remUnsigned_toNat]
  exact Nat.mod_lt _ (Nat.pos_of_ne_zero fun h => hb (BitVec.eq_of_toNat_eq h))

end Sys2Proof.Machine
end

section
/-! CERTIFICATE. Multiply and divide (R221 to R229). -/

namespace Sys2Proof.Machine

/-- Settles O26: each high half is the floor of its exact product by 2^32. -/
theorem multiplyResults : Obligations.MultiplyResults := fun _ _ _ _ hready =>
  ⟨writesRegister_of_regReg rfl hready rfl, writesRegister_of_regReg rfl hready (highHalf_eq_ofInt _),
    writesRegister_of_regReg rfl hready (highHalf_eq_ofInt _),
    writesRegister_of_regReg rfl hready (highHalf_natCast (_ * _))⟩

/-- Settles O27: the results are the handlers' own operations. -/
theorem divideResults : Obligations.DivideResults := fun _ _ _ _ hready =>
  ⟨writesRegister_of_regReg rfl hready rfl, writesRegister_of_regReg rfl hready rfl,
    writesRegister_of_regReg rfl hready rfl, writesRegister_of_regReg rfl hready rfl⟩

/-- Settles O28: the division laws from the readings of quotient and remainder, the product laws from the high half above
the low word. -/
theorem multiplyDivideLaws : Obligations.MultiplyDivideLaws := by
  intro a b
  have hsigned : |b.toInt| < 2 ^ 32 := (abs_toInt_le b).trans_lt (by norm_num)
  refine ⟨divSigned_mul_add_remSigned a, fun hb _ => ⟨remSigned_natAbs_lt a hb, remSigned_sign a b⟩,
    fun hb => ⟨divUnsigned_mul_add_remUnsigned a hb, remUnsigned_toNat_lt a hb⟩, ⟨rfl, rfl⟩, ⟨rfl, rfl, rfl, rfl⟩,
    ?_, highHalf_toNat_mul_add a b, ?_⟩
  · rw [← ofInt_toInt_mul_toInt]
    exact highHalf_toInt_mul_add (abs_toInt_mul_lt a hsigned)
  · rw [← ofInt_toInt_mul_toNat]
    exact highHalf_toInt_mul_add (abs_toInt_mul_lt a (abs_toNat_lt b))

end Sys2Proof.Machine
end

section
/-! SUPPORT. What the handlers of LR.W, SC.W and the AMOs answer, the frame of a handler that stores and then writes its
destination, and the word a store leaves (47_atomics_lrsc.md rules R241, R242, R244; 48_atomics_amo.md rules R260 to R269).
Proofs about atomics cite these lemmas. -/

namespace Sys2Proof.Machine

/-! ### Words in memory, and accesses, in two states (R48, R52) -/

/-- The word at an address depends on memory only. -/
theorem ofNat_bytesAt_of_mem_eq {s t : State} (h : t.mem = s.mem) (a n : Nat) :
    BitVec.ofNat 32 (bytesAt t a n) = BitVec.ofNat 32 (bytesAt s a n) := by
  rw [← readLE_eq_ofNat_bytesAt, ← readLE_eq_ofNat_bytesAt, h]

/-- Four bytes that are the bytes of a word, the lowest address least significant, are that word. -/
theorem ofNat_bytesAt_of_bytes {s : State} {a : Nat} {v : Word}
    (h : ∀ k, k < 4 → Memory.read s.mem (a + k) = v.extractLsb' (8 * k) 8) : BitVec.ofNat 32 (bytesAt s a 4) = v := by
  have hwritten (k : Nat) (hk : k < 4) : Memory.read s.mem (a + k) = Memory.read (Memory.writeLE [] a 4 v) (a + k) := by
    rw [h k hk, Memory.read_writeLE_inside _ _ _ _ hk, BitVec.setWidth_ushiftRight_eq_extractLsb]
  rw [← readLE_eq_ofNat_bytesAt, Memory.readLE_congr hwritten, Memory.readLE_writeLE_word]

/-- A stored word is the word at its address. -/
theorem ofNat_bytesAt_storeBytes_word (s : State) (addr v : Word) :
    BitVec.ofNat 32 (bytesAt (storeBytes s addr .word v) addr.toNat 4) = v :=
  ofNat_bytesAt_of_bytes fun _ => read_storeBytes_inside s addr .word v

/-- What may be accessed depends on the configuration only. -/
theorem AccessOk.of_cfg_eq {s t : State} {addr : Word} {w : Width} {ks : List AccessKind} (h : AccessOk s addr w ks)
    (hcfg : t.cfg = s.cfg) : AccessOk t addr w ks :=
  ⟨h.aligned, hcfg ▸ h.served⟩

theorem AccessOk.of_subset {s : State} {addr : Word} {w : Width} {ks ks' : List AccessKind} (h : AccessOk s addr w ks)
    (hsub : ks' ⊆ ks) : AccessOk s addr w ks' :=
  ⟨h.aligned, fun k hk => h.served k (hsub hk)⟩

/-! ### The frame of a store, continued (R242, R260) -/

theorem StoreFrame.setReg {s u : State} {rd : Reg} {addr n : Nat} (h : StoreFrame s u (some rd) addr n) (v : Word) :
    StoreFrame s (u.setReg rd v) (some rd) addr n where
  regs := h.regs.setReg v
  mem := h.mem
  csrs := h.csrs
  control := ⟨h.control.defect, h.control.halted, h.control.resetPc, h.control.fetched⟩
  below := h.below
  above := h.above
  system := ⟨h.system.cfg, h.system.inputs, h.system.tick⟩

/-- The reservation slot of the hart in focus is outside the frame. -/
theorem StoreFrame.setResv {s u : State} {dest : Option Reg} {addr n : Nat} (h : StoreFrame s u dest addr n)
    (r : Option Reservation) : StoreFrame s (u.setResv r) dest addr n where
  regs := h.regs
  mem := h.mem
  csrs := h.csrs
  control := ⟨h.control.defect, h.control.halted, h.control.resetPc, h.control.fetched⟩
  below := h.below
  above := h.above
  system := ⟨h.system.cfg, h.system.inputs, h.system.tick⟩

/-! ### What the engine makes of a handler that goes on (R104, R105) -/

theorem exec_of_cont {i : Instr} {s u : State} {cap : Capability} {handler : State → Result}
    (hexec : exec i s = runOp cap s handler) (hready : s.Ready cap) (hcont : handler s = .cont u) :
    exec i s = .next (retire s (.cont u)) := by
  rw [hexec, runOp_ready handler hready, hcont]

section
variable {s : State} {rs1 : Reg}

/-! ### LR.W (R241) -/

theorem loadReserved_ok (rd : Reg) (h : AccessOk s (s.reg rs1) .word [.read]) :
    loadReserved rd rs1 s =
      .cont ((s.setResv (some ⟨s.reg rs1, 4⟩)).setReg rd (BitVec.ofNat 32 (bytesAt s (s.reg rs1).toNat 4))) := by
  dsimp only [loadReserved]
  rw [memRead_ok h, readLE_eq_ofNat_bytesAt]
  rfl

theorem loadReserved_error {e : MemFault} (rd : Reg) (h : accessCheck s.cfg (s.reg rs1) .word [.read] = some e) :
    loadReserved rd rs1 s = .trap (loadCause e.kind) e.addr := by
  dsimp only [loadReserved]
  rw [memRead_error h]

/-! ### SC.W (R242) -/

theorem storeConditional_of_misaligned (rd rs2 : Reg) (h : (s.reg rs1).toNat % 4 ≠ 0) :
    storeConditional rd rs1 rs2 s = .trap .storeAddrMisaligned (s.reg rs1) :=
  if_pos h

theorem storeConditional_of_reserved (rd rs2 : Reg) (hresv : s.hart.resv = some ⟨s.reg rs1, 4⟩)
    (hok : AccessOk s (s.reg rs1) .word [.write]) :
    storeConditional rd rs1 rs2 s = .cont (((storeBytes s (s.reg rs1) .word (s.reg rs2)).setResv none).setReg rd 0) := by
  have haligned : (s.reg rs1).toNat % 4 = 0 := hok.aligned
  dsimp only [storeConditional]
  rw [if_neg (not_not.mpr haligned), if_pos hresv, memWrite_ok _ hok]

theorem storeConditional_of_not_writable (rd rs2 : Reg) (haligned : (s.reg rs1).toNat % 4 = 0)
    (hresv : s.hart.resv = some ⟨s.reg rs1, 4⟩) (hacc : accessible s.cfg (s.reg rs1) .word .write = false) :
    storeConditional rd rs1 rs2 s = .trap .storeAccessFault (s.reg rs1) := by
  have hcheck := accessCheck_fault s.cfg (w := .word) haligned (List.mem_singleton.mpr rfl) hacc
  dsimp only [storeConditional]
  rw [if_neg (not_not.mpr haligned), if_pos hresv, memWrite_error _ hcheck]
  rfl

/-! ### The AMOs (R260) -/

variable {f : Word → Word → Word} {rs2 : Reg}

theorem amo_ok (rd : Reg) (h : AccessOk s (s.reg rs1) .word [.read, .write]) :
    amo f rd rs1 rs2 s =
      .cont ((storeBytes s (s.reg rs1) .word (f (BitVec.ofNat 32 (bytesAt s (s.reg rs1).toNat 4)) (s.reg rs2))).setReg rd
        (BitVec.ofNat 32 (bytesAt s (s.reg rs1).toNat 4))) := by
  rw [amo, memAmo_ok _ _ h, readLE_eq_ofNat_bytesAt]

theorem amo_error {e : MemFault} (rd : Reg) (h : accessCheck s.cfg (s.reg rs1) .word [.read, .write] = some e) :
    amo f rd rs1 rs2 s = .trap (storeCause e.kind) e.addr := by
  rw [amo, memAmo_error _ _ h]

end

end Sys2Proof.Machine
end

section
/-! CERTIFICATE. Atomics (R241 to R248, R260 to R270). -/

namespace Sys2Proof.Machine

/-! ### LR.W and SC.W (R241 to R248) -/

/-- Settles O29: apart from the slot, LR.W writes a register; the check of its read names the fault. -/
theorem loadReservedInstalls : Obligations.LoadReservedInstalls := by
  intro s rd rs1 aq rl hready
  have hexec : exec (.lrW rd rs1 aq rl) s = runOp .a s (loadReserved rd rs1) := rfl
  refine ⟨fun hok => ?_, fun hmis => ?_, fun ha hacc => ?_⟩
  · exact ⟨_, exec_of_cont hexec hready (loadReserved_ok rd hok), ⟨rfl, rfl⟩, State.reg_setReg_same _ rd _, rfl,
      ((registerFrame_refl s _).setReg _).setPc_setOutcome _ _⟩
  · exact takesTrap_of_trap hexec hready (loadReserved_error rd (accessCheck_misaligned (w := .word) _ _ hmis))
  · exact takesTrap_of_trap hexec hready
      (loadReserved_error rd (accessCheck_fault (w := .word) _ ha (List.mem_singleton.mpr rfl) hacc))

/-- Settles O30, in the order of the handler's checks. -/
theorem storeConditionalFollowsReservation : Obligations.StoreConditionalFollowsReservation := by
  intro s rd rs1 rs2 aq rl hready
  refine ⟨fun hmis => ?_, fun hresv hok => ?_, fun ha hresv hacc => ?_, fun ha hresv => ?_⟩
  · exact takesTrap_of_trap rfl hready (storeConditional_of_misaligned rd rs2 hmis)
  · have hpc : (storeBytes s (s.reg rs1) .word (s.reg rs2)).hart.pc = s.hart.pc := s.hart.dropOverlap_pc _ _
    refine ⟨_, exec_of_cont rfl hready (storeConditional_of_reserved rd rs2 hresv hok), ⟨congrArg (· + 4) hpc, rfl⟩, ?_, rfl,
      fun _ => read_storeBytes_inside s _ .word _,
      (((storeFrame_storeBytes s (some rd) _ .word _).setResv none).setReg 0).setPc_setOutcome _ _⟩
    exact (State.reg_setReg_same _ rd 0).trans (ite_self 0)
  · exact takesTrap_of_trap rfl hready (storeConditional_of_not_writable rd rs2 ha hresv hacc)
  · exact writesRegister_scW_of_not_reserved hready ha hresv

/-- Settles O32: LR.W leaves the reservation that the next SC.W to its address needs. -/
theorem scAfterMatchingLrSucceeds : Obligations.ScAfterMatchingLrSucceeds := by
  intro s t rd rs1 rd' rs1' rs2' aq rl aq' rl' hready hok hnext haddr
  obtain ⟨hinstalls, -, -⟩ := loadReservedInstalls s rd rs1 aq rl hready
  obtain ⟨t', hexec, -, -, hresv, hframe⟩ := hinstalls (hok.of_subset (by simp))
  obtain rfl : t' = t := Host.Outcome.next.inj (hexec.symm.trans hnext)
  have hcfg : t'.cfg = s.cfg := hframe.system.cfg
  have hready' : t'.Ready .a := ⟨hframe.control.defect.trans hready.sound, hcfg ▸ hready.built⟩
  rw [← haddr] at hresv hok ⊢
  have hwrite : AccessOk t' (t'.reg rs1') .word [.write] := (hok.of_cfg_eq hcfg).of_subset (by simp)
  obtain ⟨-, hsucceeds, -, -⟩ := storeConditionalFollowsReservation t' rd' rs1' rs2' aq' rl' hready'
  obtain ⟨u, hu, hcont, hrd, hnone, hbytes, -⟩ := hsucceeds hresv hwrite
  exact ⟨u, hu, hcont, hrd, hnone, ofNat_bytesAt_of_bytes hbytes⟩

/-- Settles O35: no handler is given a qualifier. -/
theorem qualifiersChangeNothing : Obligations.QualifiersChangeNothing :=
  fun _ _ _ _ _ _ _ _ => ⟨rfl, rfl, rfl, rfl, rfl, rfl, rfl, rfl, rfl, rfl, rfl⟩

/-! ### The AMOs (R260 to R270) -/

/-- An instruction whose handler is the common AMO follows the AMO rule with what its function makes of the old word and
the second source register. -/
theorem amoRule_of_amo {i : Instr} {s : State} {f : Word → Word → Word} {new : Word → Word} {rd rs1 rs2 : Reg}
    (hexec : exec i s = runOp .a s (amo f rd rs1 rs2)) (hready : s.Ready .a) (hnew : ∀ old, f old (s.reg rs2) = new old) :
    AmoRule i s rd (s.reg rs1) new := by
  refine ⟨fun hok => ?_, fun hmis => ?_, fun ha hacc => ?_⟩
  · have hpc (v : Word) : (storeBytes s (s.reg rs1) .word v).hart.pc = s.hart.pc := s.hart.dropOverlap_pc _ _
    rw [← hnew]
    exact ⟨_, exec_of_cont hexec hready (amo_ok rd hok), ⟨congrArg (· + 4) (hpc _), rfl⟩,
      State.reg_setReg_same _ rd _, ofNat_bytesAt_storeBytes_word s _ _,
      ((storeFrame_storeBytes s (some rd) _ .word _).setReg _).setPc_setOutcome _ _,
      slotAfterStore_dropOverlap _ _ s.hart⟩
  · exact takesTrap_of_trap hexec hready (amo_error rd (accessCheck_misaligned (w := .word) _ _ hmis))
  · have hcheck : accessCheck s.cfg (s.reg rs1) .word [.read, .write] = some ⟨.accessFault, s.reg rs1⟩ := by
      obtain hr | hw := hacc
      · exact accessCheck_fault _ ha (by simp) hr
      · exact accessCheck_fault _ ha (by simp) hw
    exact takesTrap_of_trap hexec hready (amo_error rd hcheck)

/-- The AMOs that select take the operand exactly when the old word does not come first (R266 to R269). -/
theorem ite_decide_lt {α : Type} [LinearOrder α] (a b : α) (x y : Word) :
    (if decide (a < b) then x else y) = if b ≤ a then y else x := by
  simp only [decide_eq_true_eq, ← not_le, ite_not]

/-- Settles O31: each kind is the common AMO with its function. -/
theorem amosUpdateTheirWord : Obligations.AmosUpdateTheirWord := fun _ _ _ _ _ _ hready =>
  ⟨amoRule_of_amo rfl hready fun _ => rfl,
    amoRule_of_amo rfl hready fun _ => rfl,
    amoRule_of_amo rfl hready fun _ => rfl,
    amoRule_of_amo rfl hready fun _ => rfl,
    amoRule_of_amo rfl hready fun _ => rfl,
    amoRule_of_amo rfl hready fun _ => ite_decide_lt _ _ _ _,
    amoRule_of_amo rfl hready fun _ => ite_decide_lt _ _ _ _,
    amoRule_of_amo rfl hready fun _ => ite_decide_lt _ _ _ _,
    amoRule_of_amo rfl hready fun _ => ite_decide_lt _ _ _ _⟩

/-- Settles O34: the second AMO finds as its old word what the first one stored. -/
theorem amoAddsOfTwoHartsAreNotLost : Obligations.AmoAddsOfTwoHartsAreNotLost := by
  intro s t u k rd rs1 rs2 rd' rs1' rs2' aq rl aq' rl' hready hok hnext hfocus hready' haddr
  obtain ⟨-, ⟨hfirst, -, -⟩, -⟩ := amosUpdateTheirWord s rd rs1 rs2 aq rl hready
  obtain ⟨t', hexec, -, -, hadded, hframe, -⟩ := hfirst hok
  obtain rfl : t' = t := Host.Outcome.next.inj (hexec.symm.trans hnext)
  obtain ⟨-, hcfg, hmem, -⟩ := State.focus_harts hfocus
  have hok' : AccessOk u (u.reg rs1') .word [.read, .write] := haddr ▸ hok.of_cfg_eq (hcfg.trans hframe.system.cfg)
  obtain ⟨-, ⟨hsecond, -, -⟩, -⟩ := amosUpdateTheirWord u rd' rs1' rs2' aq' rl' hready'
  obtain ⟨v, hv, -, -, hsum, -, -⟩ := hsecond hok'
  refine ⟨v, hv, ?_⟩
  calc BitVec.ofNat 32 (bytesAt v (s.reg rs1).toNat 4)
      = BitVec.ofNat 32 (bytesAt u (s.reg rs1).toNat 4) + u.reg rs2' := haddr ▸ hsum
    _ = BitVec.ofNat 32 (bytesAt t' (s.reg rs1).toNat 4) + u.reg rs2' := by rw [ofNat_bytesAt_of_mem_eq hmem]
    _ = BitVec.ofNat 32 (bytesAt s (s.reg rs1).toNat 4) + s.reg rs2 + u.reg rs2' := congrArg (· + u.reg rs2') hadded

/-! ### What does not break a reservation (R245) -/

/-- The state a handler answers with has the reservation slot of `s`. -/
def Result.KeepsResv (s : State) : Result → Prop
  | .cont u | .jump _ u => u.hart.resv = s.hart.resv
  | .trap .. => True

section
variable (s : State)

theorem keepsResv_jumpAndLink (rd : Reg) (t : Word) : (jumpAndLink rd t s).KeepsResv s := by
  unfold jumpAndLink
  split
  · trivial
  · rfl

theorem keepsResv_branch (cond : Word → Word → Bool) (rs1 rs2 : Reg) (imm : Word) :
    (branch cond rs1 rs2 imm s).KeepsResv s := by
  unfold branch
  split
  · dsimp only
    split
    · trivial
    · rfl
  · rfl

theorem keepsResv_load (w : Width) (ext : Word → Word) (rd rs1 : Reg) (imm : Word) :
    (load w ext rd rs1 imm s).KeepsResv s := by
  unfold load
  split
  · trivial
  · rfl

/-- The CSR unit has no part in the reservation, so each answer's slot is that of `s`. -/
theorem keepsResv_csrAccess (doRead doWrite : Bool) (new : Word → Word → Word) (src : Word) (rd : Reg)
    (csr : CsrAddr) (raw : Word) : (csrAccess doRead doWrite new src rd csr raw s).KeepsResv s := by
  unfold csrAccess
  split
  · trivial
  · split
    · split
      · trivial
      · cases doWrite <;> simp [Result.KeepsResv]
    · cases doWrite <;> simp [Result.KeepsResv]

/-- Outside the stores, LR.W, SC.W and the AMOs, `exec` is the engine around a handler that leaves the slot alone. -/
theorem exec_eq_runOp_keepsResv {i : Instr} (hstore : storesMemory i = false) (hlr : isLoadReserved i = false) :
    ∃ handler, exec i s = runOp i.capability s handler ∧ (handler s).KeepsResv s := by
  cases i with
  | sb | sh | sw | scW
  | amoswapW | amoaddW | amoxorW | amoandW | amoorW | amominW | amomaxW | amominuW | amomaxuW => cases hstore
  | lrW => cases hlr
  | fence | fenceI => exact ⟨_, rfl, rfl⟩
  | ecall => exact ⟨fun _ => .trap .environmentCall 0, rfl, trivial⟩
  | ebreak => exact ⟨fun s => .trap .breakpoint s.hart.pc, rfl, trivial⟩
  | lui rd imm => exact ⟨fun s => .cont (s.setReg rd imm), rfl, rfl⟩
  | auipc rd imm => exact ⟨fun s => .cont (s.setReg rd (s.hart.pc + imm)), rfl, rfl⟩
  | addi | slti | sltiu | xori | ori | andi | slli | srli | srai
  | add | sub | sll | slt | sltu | xor | srl | sra | or | and
  | mul | mulh | mulhsu | mulhu | div | divu | rem | remu => exact ⟨_, rfl, rfl⟩
  | jal | jalr => exact ⟨_, rfl, keepsResv_jumpAndLink s _ _⟩
  | beq | bne | blt | bge | bltu | bgeu => exact ⟨_, rfl, keepsResv_branch s _ _ _ _⟩
  | lb | lh | lw | lbu | lhu => exact ⟨_, rfl, keepsResv_load s _ _ _ _ _⟩
  | csrrw | csrrs | csrrc | csrrwi | csrrsi | csrrci => exact ⟨_, rfl, keepsResv_csrAccess s _ _ _ _ _ _ _⟩

end

/-- Settles O42: the engine clears a slot only where the handler traps. -/
theorem reservationSurvivesOtherInstructions : Obligations.ReservationSurvivesOtherInstructions := by
  intro i s t h hstore hlr hnotrap
  obtain ⟨handler, e, hkeeps⟩ := exec_eq_runOp_keepsResv s hstore hlr
  obtain ⟨-, ⟨-, rfl⟩ | ⟨-, rfl⟩⟩ := runOp_next (e ▸ h)
  · rfl
  · generalize handler s = r at hkeeps hnotrap
    cases r with
    | cont | jump => exact hkeeps
    | trap c v => exact absurd rfl (hnotrap c v)

end Sys2Proof.Machine
end

section
/-! CERTIFICATE. Traps, signals and reset (R104, R108, R312 to R314, R340, R346). -/

namespace Sys2Proof.Machine

/-! ### Calls and traps (R104, R108, R312, R313) -/

/-- A call on a defective hart is refused (R104, R108). -/
theorem exec_of_defect (i : Instr) {s : State} (h : s.hart.defect = true) : exec i s = .refused .defect := by
  obtain ⟨handler, e, -⟩ := exec_eq_runOp s i
  rw [e, runOp, if_pos h]

/-- Settles O43: `exec` is the engine around a handler, and the engine refuses a defective hart only. -/
theorem everyCallReturns : Obligations.EveryCallReturns := by
  refine fun i s => ⟨fun hd => ?_, exec_of_defect i⟩
  obtain ⟨handler, e, -⟩ := exec_eq_runOp s i
  rw [e]
  exact exists_next_runOp hd _ _

/-- Only a handler that traps gives the Outcome Trap, with its own cause and value. -/
theorem traps_of_executeOp {op : Operation} {s t : State} {c : Cause} {v : Word}
    (hout : t.hart.outcome = some (.trapped c v)) (h : executeOp op s = .next t) : Traps s t c v := by
  obtain ⟨-, cap, ⟨-, rfl⟩ | ⟨-, r, -, rfl⟩⟩ := executeOp_next h
  · cases hout
  · cases r with
    | cont | jump => cases hout
    | trap c' v' => cases hout; exact traps_takeTrap s c v

/-- Settles O38: a call traps on its fetch or by its handler, and both take the trap from the state as it was. -/
theorem trapsArePrecise : Obligations.TrapsArePrecise := by
  refine fun s t c v hout => ⟨fun op => traps_of_executeOp hout, fun hf h => ?_⟩
  obtain ⟨-, ⟨f, -, -, rfl⟩ | ⟨op, hop, -⟩ | ⟨op, -, -, hexec⟩⟩ := execute_next h
  · cases hout
    exact traps_takeTrap s _ _
  · rw [hf] at hop
    cases hop
  · exact traps_of_executeOp hout hexec

/-! ### The context switch (R314) -/

/-- An action between calls happens on the hart in focus. -/
theorem betweenCalls_of_focus {k : Nat} {s u : State} (hfocus : s.focus k = some u) (hf : u.hart.fetched = none)
    (act : State → Host.Outcome State Fault Refusal) : betweenCalls k s act = act u := by
  rw [betweenCalls, onHart_of_focus hfocus, if_neg (by simp [hf])]

/-- Settles O53: the signal is `setResv none` on the hart it names. -/
theorem contextSwitchClearsOneReservation : Obligations.ContextSwitchClearsOneReservation := by
  intro s u k hfocus hinput hf
  obtain ⟨hharts, hcfg, hmem, -⟩ := State.focus_harts hfocus
  refine ⟨u.setResv none, ?_, rfl, rfl, rfl, hmem, hcfg, hharts⟩
  rw [step_of_head? hinput, applyInput, betweenCalls_of_focus hfocus hf]

/-! ### The reset input (R340) -/

/-- Between calls of every hart the reset input acts on the state the step starts from. -/
theorem step_reset {s : State} (hinput : s.inputs.head? = some .reset) (hf : ∀ h ∈ s.harts, h.fetched = none) :
    step s = .next s.begin.resetInput := by
  have hidle : ¬ s.begin.harts.any (fun h => h.fetched.isSome) = true := by
    rw [List.any_eq_true]
    rintro ⟨h, hh, hsome⟩
    rw [hf h hh] at hsome
    cases hsome
  rw [step_of_head? hinput, applyInput, if_neg hidle]

/-- A change of each element by its number relates the lists as it relates the elements. -/
theorem forall₂_mapIdx {α β : Type} {R : α → β → Prop} {f : Nat → α → β} (l : List α) (h : ∀ k x, R x (f k x)) :
    List.Forall₂ R l (l.mapIdx f) := by
  induction l generalizing f with
  | nil => exact .nil
  | cons x xs ih =>
    rw [List.mapIdx_cons]
    exact .cons (h 0 x) (ih fun k => h (k + 1))

/-- Settles O54: what the reset input does to one hart it does to every hart, and it keeps memory and the configuration. -/
theorem resetInputSetsEveryHart : Obligations.ResetInputSetsEveryHart := by
  intro s hinput hf
  refine ⟨_, step_reset hinput hf, rfl, rfl, ?_⟩
  rw [State.harts_resetInput]
  exact forall₂_mapIdx s.harts fun _ _ => ⟨rfl, rfl, rfl, rfl, rfl, rfl, rfl⟩

end Sys2Proof.Machine
end
